-- ==== Sys2Proof/Word.lean ====
section
/-!
DEFINITION. The word types of the command and event ports, and the type of the values of the number
format `NUM` (spec/00_scope.md §4, spec/20_memory.md R60, spec/30_encoding.md R80, R85).
-/
namespace Sys2Proof

/-- One byte of a transport, of a MODBYTE operand or of `ACC` (R62, R85, R45). -/
abbrev Byte := BitVec 8

/-- A command word or an event word: 32 bits each (`CMD_W`, `EVT_W`, R5, R80, R86). -/
abbrev Word := BitVec 32

/-- A register number: 4 bits, 0x0 to 0xF (R60, R61). -/
abbrev RegNo := BitVec 4

/-- A configuration register's value: `REG_W` = 24 bits (R5, R20). -/
abbrev RegVal := BitVec 24

/-- A PCM sample: 16 bits, two's complement (R63). -/
abbrev Sample := BitVec 16

/-- A value of the number format `NUM` (R5, D2, I6): NaN, an infinity, or `(-1)^neg * mant * 2^exp`.
Every binary floating-point or fixed-point format has its values here, so which of them a format
holds, and how it rounds, is left to the format's operations (`Numerics`).  The operations of the
reference format answer in the canonical form: a zero is `fin neg 0 0`, and any other mantissa is odd. -/
inductive NumVal where
  /-- Not a number: one value, since no rule reads a payload (log entry 3). -/
  | nan
  /-- An infinity. -/
  | inf (neg : Bool)
  /-- `(-1)^neg * mant * 2^exp`; a zero keeps its sign. -/
  | fin (neg : Bool) (mant : Nat) (exp : Int)
  deriving DecidableEq, Repr, Inhabited

/-- A complex number, a pair of `NUM` (00_scope.md §4). -/
structure Cplx where
  re : NumVal
  im : NumVal
  deriving DecidableEq, Repr, Inhabited

end Sys2Proof
end

