-- ==== Sys2Proof/Syntax.lean ====
section
/-!
DEFINITION. The commands: one constructor per row of spec/opcode_table.json (spec/30_encoding.md R81, R82).
-/
namespace Sys2Proof

/-- A command of the opcode map (R81).  The operands are the fields of R80 and R85, each at exactly
the width its format gives it. -/
inductive Instr where
  /-- OP 0x0, format N (R120). -/
  | nop
  /-- OP 0x1, format N (R121). -/
  | reset
  /-- OP 0x2, format RV: register number and 24-bit value (R122). -/
  | wrcfg (r : RegNo) (v : RegVal)
  /-- OP 0x3, format R: register number (R124). -/
  | rdreg (r : RegNo)
  /-- OP 0x4, format N (R125). -/
  | start
  /-- OP 0x5, format N (R136). -/
  | stop
  /-- OP 0x6, format S: one PCM sample (R160). -/
  | demod (smp : Sample)
  /-- OP 0x7, format B: one byte (R240). -/
  | modbyte (b : Byte)
  /-- OP 0x8, format N (R249). -/
  | modpost
  deriving DecidableEq, Repr, Inhabited

end Sys2Proof
end

