-- ==== Sys2Proof/Decode.lean ====
section
/-!
DEFINITION. Decoding a command word, total on every word and on any bytes, rejecting by name; then the
encoder, written from the same tables (spec/30_encoding.md R80 to R85, spec/20_memory.md R62, R65).
-/
namespace Sys2Proof

/-- Why a word is no command.  Both raise ILLEGAL_OP (R83, R84). -/
inductive DecodeError where
  /-- `OP` in 0x9..0xF (R84). -/
  | undefinedOpcode
  /-- A defined `OP` with a reserved bit set (R83). -/
  | reservedBits
  deriving DecidableEq, Repr

/-- `OP = cmd[31:28]` (R80). -/
def opField (w : Word) : BitVec 4 := w.extractLsb' 28 4

/-- `R = cmd[27:24]` (R85). -/
def regField (w : Word) : RegNo := w.extractLsb' 24 4

/-- `V = cmd[23:0]` (R85). -/
def valueField (w : Word) : RegVal := w.extractLsb' 0 24

/-- `S = cmd[15:0]` (R85). -/
def sampleField (w : Word) : Sample := w.extractLsb' 0 16

/-- `B = cmd[7:0]` (R85). -/
def byteField (w : Word) : Byte := w.extractLsb' 0 8

/-- `i` when the reserved bits `lo .. lo+n-1` of the word are all 0, else the rejection of R83. -/
def ifReservedZero (w : Word) (lo n : Nat) (i : Instr) : Except DecodeError Instr :=
  if w.extractLsb' lo n = 0#n then .ok i else .error .reservedBits

/-- The decoder: the opcode map of R81 with the reserved bits of R82 and R83. -/
def decode (w : Word) : Except DecodeError Instr :=
  match (opField w).toNat with
  | 0 => ifReservedZero w 0 28 .nop
  | 1 => ifReservedZero w 0 28 .reset
  | 2 => .ok (.wrcfg (regField w) (valueField w))
  | 3 => ifReservedZero w 0 24 (.rdreg (regField w))
  | 4 => ifReservedZero w 0 28 .start
  | 5 => ifReservedZero w 0 28 .stop
  | 6 => ifReservedZero w 16 12 (.demod (sampleField w))
  | 7 => ifReservedZero w 8 20 (.modbyte (byteField w))
  | 8 => ifReservedZero w 0 28 .modpost
  | _ => .error .undefinedOpcode

/-- The command word of a command: the formats N, RV, R, S and B of R80 with the opcodes of R81. -/
def encode : Instr → Word
  | .nop => 0x0#4 ++ 0#28
  | .reset => 0x1#4 ++ 0#28
  | .wrcfg r v => 0x2#4 ++ (r ++ v)
  | .rdreg r => 0x3#4 ++ (r ++ 0#24)
  | .start => 0x4#4 ++ 0#28
  | .stop => 0x5#4 ++ 0#28
  | .demod x => 0x6#4 ++ (0#12 ++ x)
  | .modbyte b => 0x7#4 ++ (0#20 ++ b)
  | .modpost => 0x8#4 ++ 0#28

/-- The bytes of a word on a byte transport, byte 0 (bits 7:0) first: little-endian (R62). -/
def bytesOfWord (w : Word) : List Byte :=
  [w.extractLsb' 0 8, w.extractLsb' 8 8, w.extractLsb' 16 8, w.extractLsb' 24 8]

/-- The word whose bytes, lowest first, are the four given (R62). -/
def wordOfBytes (b0 b1 b2 b3 : Byte) : Word := b3 ++ (b2 ++ (b1 ++ b0))

/-- What a byte transport holds for the block. -/
inductive ByteDecode where
  /-- Fewer than four bytes have come: no command yet (R65). -/
  | incomplete
  /-- A whole word that is a command, and the bytes after it. -/
  | command (i : Instr) (rest : List Byte)
  /-- A whole word that is none, and the bytes after it. -/
  | illegal (e : DecodeError) (w : Word) (rest : List Byte)
  deriving DecidableEq, Repr

/-- Decoding from bytes: a word is taken only when all of it is present (R62, R65). -/
def decodeBytes : List Byte → ByteDecode
  | b0 :: b1 :: b2 :: b3 :: rest =>
    match decode (wordOfBytes b0 b1 b2 b3) with
    | .ok i => .command i rest
    | .error e => .illegal e (wordOfBytes b0 b1 b2 b3) rest
  | _ => .incomplete

/-- The word of a row of spec/opcode_table.json: its low `nbits` bits, the rest 0. -/
def tableWord (nbits w : Nat) : Word := BitVec.ofNat 32 (w % 2 ^ nbits)

/-- The command the decoder reads from the bytes of a table word, laid out as R62 lays them out. -/
def decodeTableWord (nbits w : Nat) : Option Instr :=
  match decodeBytes (bytesOfWord (tableWord nbits w)) with
  | .command i _ => some i
  | _ => none

/-- One row of the match and mask table of R82. -/
structure OpcodeRow where
  mnemonic : String
  pattern : Word
  mask : Word
  deriving DecidableEq, Repr

/-- The table of R82 (and of spec/opcode_table.json), row by row. -/
def opcodeRows : List OpcodeRow :=
  [⟨"NOP", 0x00000000#32, 0xFFFFFFFF#32⟩,
   ⟨"RESET", 0x10000000#32, 0xFFFFFFFF#32⟩,
   ⟨"WRCFG", 0x20000000#32, 0xF0000000#32⟩,
   ⟨"RDREG", 0x30000000#32, 0xF0FFFFFF#32⟩,
   ⟨"START", 0x40000000#32, 0xFFFFFFFF#32⟩,
   ⟨"STOP", 0x50000000#32, 0xFFFFFFFF#32⟩,
   ⟨"DEMOD", 0x60000000#32, 0xFFFF0000#32⟩,
   ⟨"MODBYTE", 0x70000000#32, 0xFFFFFF00#32⟩,
   ⟨"MODPOST", 0x80000000#32, 0xFFFFFFFF#32⟩]

/-- `(cmd & mask) == match` (R82). -/
def OpcodeRow.covers (r : OpcodeRow) (w : Word) : Bool := w &&& r.mask == r.pattern

/-- The mnemonic of a command (R81). -/
def Instr.mnemonic : Instr → String
  | .nop => "NOP"
  | .reset => "RESET"
  | .wrcfg _ _ => "WRCFG"
  | .rdreg _ => "RDREG"
  | .start => "START"
  | .stop => "STOP"
  | .demod _ => "DEMOD"
  | .modbyte _ => "MODBYTE"
  | .modpost => "MODPOST"

end Sys2Proof
end

