-- ==== Sys2Proof/Config.lean ====
section
/-!
DEFINITION. What an implementation fixes (spec/00_scope.md R5) and the free values: the operations of
the OPEN number format, and the values no rule states.
-/
namespace Sys2Proof

/-- The operations of a number format `NUM` (R5, D2, D3).  Each arithmetic operation is one `NUM`
operation, rounded once.  Comparisons, `FLOOR` and `RNE` do not depend on the format and stand in
Machine/Numbers.lean. -/
structure Numerics where
  /-- `TO_NUM(i)`. -/
  ofInt : Int → NumVal
  add : NumVal → NumVal → NumVal
  sub : NumVal → NumVal → NumVal
  mul : NumVal → NumVal → NumVal
  div : NumVal → NumVal → NumVal
  /-- The sign change written `−x` in `conj` and in `HLP2`. -/
  neg : NumVal → NumVal
  sin : NumVal → NumVal
  cos : NumVal → NumVal
  tan : NumVal → NumVal
  /-- `ATAN2(b, a)`: the principal argument of `(a, b)` (R186). -/
  atan2 : NumVal → NumVal → NumVal
  /-- `PI`: the value of `NUM` nearest π. -/
  pi : NumVal
  deriving Inhabited

namespace Config

/-- `P_MAX`: the largest pole count (R5, D43). -/
def pMax : Nat := 8

/-- `NST_MAX = P_MAX / 2`: biquad stages per branch (R5, D43). -/
abbrev nstMax : Nat := 4

/-- `AGE_MAX`: where the age counters saturate (R5, D23). -/
def ageMax : Nat := 2 ^ 24 - 1

/-- The value 0xFFFFFF of GEDGE and GBYTE, which means AUTO (R95). -/
def auto : RegVal := 0xFFFFFF#24

/-- The value of the ID register (R36, D39). -/
def idValue : RegVal := 0x46534B#24

/-- The number formats other than the reference one: which they are is not known to any proof
(R5 calls `NUM`, `SIN`, `COS`, `TAN` and `ATAN2` OPEN; log entry 1). -/
opaque numerics : Nat → Numerics

/-- `FLOOR` of a NaN or an infinity: no rule gives it (log entry 4). -/
opaque floorOpen : NumVal → Int

/-- `RNE` of a NaN or an infinity: no rule gives it (log entry 4). -/
opaque nearestOpen : NumVal → Int

/-- The unspecified derived constants of type `NUM` (R39, I10, I11): event number, then element. -/
opaque freeNum : Nat → Nat → NumVal

/-- The unspecified derived constants that are one bit. -/
opaque freeBit : Nat → Nat → Bool

/-- The unspecified derived constants that are 24-bit integers. -/
opaque freeInt : Nat → Nat → RegVal

/-- The unspecified `NST`, less 1: R39 gives it the range 1..4. -/
opaque freeStages : Nat → Fin nstMax

end Config
end Sys2Proof
end

