-- ==== Sys2Proof/Machine/State.lean ====
section
/-!
DEFINITION. The state of FSKCORE as plain data (spec/10_state.md R20 to R54), what an implementation
fixes and what the host does, and the machine after reset (R54, R291).
-/
namespace Sys2Proof.Machine

/-- The configuration registers, numbers 0x0 to 0xC (R21 to R33). -/
structure ConfigRegs where
  /-- 0x0 FS, the sample rate (R21). -/
  fs : RegVal
  /-- 0x1 BAUD, the symbol rate (R22). -/
  baud : RegVal
  /-- 0x2 FMARK, the mark tone (R23). -/
  fmark : RegVal
  /-- 0x3 FSPACE, the space tone (R24). -/
  fspace : RegVal
  /-- 0x4 FCORNER, the prototype's corner (R25). -/
  fcorner : RegVal
  /-- 0x5 POLES, the pole count (R26). -/
  poles : RegVal
  /-- 0x6 THRLO, Q8.16 (R27). -/
  thrlo : RegVal
  /-- 0x7 THRHI, Q8.16 (R28). -/
  thrhi : RegVal
  /-- 0x8 CTRL: bit 0 DISC, bit 1 SYNC, bit 2 WCMP, the rest reads 0 (R29). -/
  ctrl : RegVal
  /-- 0x9 GEDGE (R30). -/
  gedge : RegVal
  /-- 0xA GBYTE (R31). -/
  gbyte : RegVal
  /-- 0xB PREBITS (R32). -/
  prebits : RegVal
  /-- 0xC POSTBITS (R33). -/
  postbits : RegVal
  deriving DecidableEq, Repr

/-- The reset values of R21 to R33 (R54). -/
def ConfigRegs.reset : ConfigRegs where
  fs := 11025#24
  baud := 300#24
  fmark := 1270#24
  fspace := 1070#24
  fcorner := 150#24
  poles := 4#24
  thrlo := 0x004000#24
  thrhi := 0x00C000#24
  ctrl := 0#24
  gedge := 0xFFFFFF#24
  gbyte := 0xFFFFFF#24
  prebits := 10#24
  postbits := 2#24

/-- `MODE` (R37). -/
inductive Mode where
  | config
  | run
  deriving DecidableEq, Repr

/-- The error causes (R261); code 0 is no cause. -/
inductive Cause where
  /-- Code 1. -/
  | illegalOp
  /-- Code 2. -/
  | badMode
  /-- Code 3. -/
  | badReg
  /-- Code 4. -/
  | configInvalid
  deriving DecidableEq, Repr

/-- One BiquadStage `COEF[i]`; the leading denominator coefficient is 1 and is not stored (R40). -/
structure Biquad where
  b0 : NumVal
  b1 : NumVal
  b2 : NumVal
  a1 : NumVal
  a2 : NumVal
  deriving DecidableEq, Repr

/-- The two memory cells of one biquad stage, `FMEM[i][1]` and `FMEM[i][2]` (R41). -/
structure StageCells where
  c1 : Cplx
  c2 : Cplx
  deriving DecidableEq, Repr

/-- The FilterState of one branch: `NST_MAX` stages of two cells (R41). -/
abbrev FilterMem := Vector StageCells Config.nstMax

/-- The constants START derives and latches (R39). -/
structure Derived where
  /-- `fs_n` (R127). -/
  fsN : NumVal
  /-- `baud_n` (R127). -/
  baudN : NumVal
  /-- `fm_n` (R127). -/
  fmN : NumVal
  /-- `fsp_n` (R127). -/
  fspN : NumVal
  /-- `fc_n` (R127). -/
  fcN : NumVal
  /-- `DISC_L`: false = power ratio, true = phase difference (R128). -/
  discL : Bool
  /-- `SYNC_L`: false = fractional countdown, true = counter based (R128). -/
  syncL : Bool
  /-- `WCMP_L`: false = `≥`, true = `==` (R128). -/
  wcmpL : Bool
  /-- `lo_n` (R129). -/
  loN : NumVal
  /-- `hi_n` (R129). -/
  hiN : NumVal
  /-- `spb`, the bit period in samples (R130). -/
  spb : NumVal
  /-- `SPB_I` (R131). -/
  spbI : Nat
  /-- `HALF_I` (R131). -/
  halfI : Nat
  /-- `G_EDGE` (R132). -/
  gEdge : Nat
  /-- `G_BYTE` (R132). -/
  gByte : Nat
  /-- `PRE_N` (R132). -/
  preN : Nat
  /-- `POST_N` (R132). -/
  postN : Nat
  /-- `NST`, 1..4 (R133). -/
  nst : Nat
  /-- `COEF[0..NST_MAX-1]` (R40). -/
  coef : Vector Biquad Config.nstMax
  /-- `K` (R184). -/
  k : NumVal
  /-- `ROT_M` (R134). -/
  rotM : Cplx
  /-- `ROT_S` (R134). -/
  rotS : Cplx
  /-- `ROT_C` (R134). -/
  rotC : Cplx
  deriving DecidableEq, Repr

/-- The number +0. -/
def numZero : NumVal := .fin false 0 0

/-- The number 1. -/
def numOne : NumVal := .fin false 1 0

/-- The complex number (0, 0). -/
def cplxZero : Cplx := ⟨numZero, numZero⟩

/-- Filter memory with every cell (0, 0) (R41, R135). -/
def filterMemZero : FilterMem := Vector.replicate _ ⟨cplxZero, cplxZero⟩

/-- The demodulator state (R41 to R48). -/
structure Demod where
  /-- `FMEM_M` (R41). -/
  fmemM : FilterMem
  /-- `FMEM_S` (R41). -/
  fmemS : FilterMem
  /-- `FM_PREV` (R42). -/
  fmPrev : Cplx
  /-- `SYM`, mark = true (R43). -/
  sym : Bool
  /-- `PSYM`, mark = true (R43). -/
  psym : Bool
  /-- `IDX`, 9 = IDLE, 0..8 = FRAMING (R44). -/
  idx : Fin 10
  /-- `ACC` (R45). -/
  acc : Byte
  /-- `CD` (R46). -/
  cd : NumVal
  /-- `BITAGE`; 32 bits signed in hardware (R47, log entry 15). -/
  bitage : Int
  /-- `EAGE`, 24 bits saturating (R48). -/
  eage : Nat
  /-- `BAGE`, 24 bits saturating (R48). -/
  bage : Nat
  deriving DecidableEq, Repr

/-- The demodulator state after reset and after START (R54, R135). -/
def Demod.initial : Demod where
  fmemM := filterMemZero
  fmemS := filterMemZero
  fmPrev := cplxZero
  sym := true
  psym := true
  idx := 9
  acc := 0#8
  cd := numZero
  bitage := 0
  eage := 0
  bage := 0

/-- The modulator state (R49 to R51). -/
structure Modulator where
  /-- `CAR`, the carrier (R49). -/
  car : Cplx
  /-- `MT`, the fractional sample time (R50). -/
  mt : NumVal
  /-- `BURST` (R51). -/
  burst : Bool
  deriving DecidableEq, Repr

/-- The modulator state after reset and after START (R54, R135). -/
def Modulator.initial : Modulator where
  car := ⟨numOne, numZero⟩
  mt := numZero
  burst := false

/-- Which number format the implementation has (R5, log entry 1). -/
inductive NumChoice where
  /-- The reference value of R5: IEEE binary64 with correctly rounded functions. -/
  | reference
  /-- Any other: its operations are `Config.numerics k`, of which nothing is known. -/
  | implementation (k : Nat)
  deriving DecidableEq, Repr

/-- The implementation parameters R5 leaves OPEN.  They are the MODEL's own field of the state: no
rule writes them, and no statement rests on the value `State.reset` gives them. -/
structure Impl where
  /-- `NUM`, `SIN`, `COS`, `TAN`, `ATAN2` and `PI`. -/
  num : NumChoice
  /-- `OUT_DEPTH` (R66, log entry 5). -/
  outDepth : Nat
  deriving DecidableEq, Repr

/-- What the environment does to the block (R52, R66, R290, R305). -/
inductive HostMove where
  /-- The host writes one whole command word (R65). -/
  | command (w : Word)
  /-- The host takes one event word from the front of `OUT` (R66). -/
  | take
  /-- Power-on reset, applied from outside (R290). -/
  | powerOn
  deriving DecidableEq, Repr

/-- The state of the block (R20), with three fields of the MODEL's own: `input`, what the environment
does next, in order; `impl`, what the implementation fixes; `freeCount`, which counts the occasions on
which constants became unspecified, so that each occasion has free values of its own. -/
structure State where
  /-- The configuration registers (R21 to R33). -/
  cfg : ConfigRegs
  /-- `MODE` (R37). -/
  mode : Mode
  /-- `ERR` (R38). -/
  err : Bool
  /-- `CAUSE` (R38). -/
  cause : BitVec 4
  /-- The derived constants (R39, R40). -/
  derived : Derived
  /-- The demodulator state (R41 to R48). -/
  demod : Demod
  /-- The modulator state (R49 to R51). -/
  modulator : Modulator
  /-- `OUT`, the event words emitted and not yet taken, oldest first (R52, R66). -/
  out : List Word
  /-- The environment's moves still to come, the command words among them, in order (R52). -/
  input : List HostMove
  /-- The implementation parameters (R5). -/
  impl : Impl
  /-- How often constants have become unspecified (log entry 14). -/
  freeCount : Nat
  deriving DecidableEq, Repr

/-- Why the block makes no step. -/
inductive Fault where
  /-- Raised by `step` only, when the next command's events do not fit in `OUT` and the environment
  never takes a word: the block is stuck, the command is not consumed (R66, R277, I8).  Safe. -/
  | outStalled
  deriving DecidableEq, Repr

/-- Why a command has no meaning.  No command of the table is refused (R277: "No refusal exists at
the word level"). -/
inductive Refusal where
  /-- Raised by `exec` for a command that has no meaning in the model yet; no arm does.  Safe. -/
  | notModelled (mnemonic : String)
  deriving DecidableEq, Repr

/-- The outcome of a step or of a command. -/
abbrev Result := Host.Outcome State Fault Refusal

/-- A stage of zeros: what `COEF` holds in `State.reset` (DESIGN CHOICE, log entry 11). -/
def biquadZero : Biquad := ⟨numZero, numZero, numZero, numZero, numZero⟩

/-- The derived constants in `State.reset`.  R39 calls them unspecified until START; zero is the
model's choice (DESIGN CHOICE, log entry 11), and no rule reads them before START writes them. -/
def Derived.reset : Derived where
  fsN := numZero
  baudN := numZero
  fmN := numZero
  fspN := numZero
  fcN := numZero
  discL := false
  syncL := false
  wcmpL := false
  loN := numZero
  hiN := numZero
  spb := numZero
  spbI := 0
  halfI := 0
  gEdge := 0
  gByte := 0
  preN := 0
  postN := 0
  nst := 1
  coef := Vector.replicate _ biquadZero
  k := numZero
  rotM := cplxZero
  rotS := cplxZero
  rotC := cplxZero

/-- The implementation parameters in `State.reset`: the reference number format, and an event port
that no single command fills (DESIGN CHOICE, log entries 1 and 5). -/
def Impl.reset : Impl where
  num := .reference
  outDepth := 2 ^ 64

/-- The machine right after power-on reset: every field at the value of R54. -/
def State.reset : State where
  cfg := ConfigRegs.reset
  mode := .config
  err := false
  cause := 0#4
  derived := Derived.reset
  demod := Demod.initial
  modulator := Modulator.initial
  out := []
  input := []
  impl := Impl.reset
  freeCount := 0

end Sys2Proof.Machine
end

