-- ==== Sys2Proof/Machine/Events.lean ====
section
/-!
DEFINITION. The event words (spec/30_encoding.md R86 to R92).
-/
namespace Sys2Proof.Machine

/-- An event, before it is encoded (R86). -/
inductive Event where
  /-- One output sample of the modulator (R87). -/
  | sample (x : Sample)
  /-- One recovered byte (R88). -/
  | byte (b : Byte)
  /-- A frame whose stop bit was sampled 0, with the byte accumulated for it (R89). -/
  | discard (b : Byte)
  /-- The value of a register (R90). -/
  | regval (r : RegNo) (v : RegVal)
  /-- A command raised an error: its cause, and bits 31:24 of its word (R91). -/
  | error (cause : BitVec 4) (top : Byte)
  deriving DecidableEq, Repr

/-- The event word: the table of R86, with the layouts of R87 to R91. -/
def eventWord : Event → Word
  | .sample x => 0x1#4 ++ (0#12 ++ x)
  | .byte b => 0x2#4 ++ (0#20 ++ b)
  | .discard b => 0x3#4 ++ (0#20 ++ b)
  | .regval r v => 0x4#4 ++ (r ++ v)
  | .error c t => 0xE#4 ++ (c ++ (0#16 ++ t))

/-- `TAG = E[31:28]` (R86). -/
def eventTag (w : Word) : BitVec 4 := w.extractLsb' 28 4

/-- `e` when the fields R86 shows as 0 (bits `lo .. lo+n-1`) are 0. -/
def ifFieldZero (w : Word) (lo n : Nat) (e : Event) : Option Event :=
  if w.extractLsb' lo n = 0#n then some e else none

/-- The event a word stands for, as the host reads it; none for a word the block never emits (R92). -/
def eventOfWord (w : Word) : Option Event :=
  match (eventTag w).toNat with
  | 0x1 => ifFieldZero w 16 12 (.sample (w.extractLsb' 0 16))
  | 0x2 => ifFieldZero w 8 20 (.byte (w.extractLsb' 0 8))
  | 0x3 => ifFieldZero w 8 20 (.discard (w.extractLsb' 0 8))
  | 0x4 => some (.regval (w.extractLsb' 24 4) (w.extractLsb' 0 24))
  | 0xE => ifFieldZero w 8 16 (.error (w.extractLsb' 24 4) (w.extractLsb' 0 8))
  | _ => none

end Sys2Proof.Machine
end

