-- ==== Sys2Proof/Machine/Flags.lean ====
section
/-!
DEFINITION. The flags: the error causes, the views STATUS and FRAME, the fields of CTRL, and the
transitions of the symbol (spec/10_state.md R29, R34, R35, R38; spec/44_framer.md R211).
-/
namespace Sys2Proof.Machine

/-- The cause code (R261). -/
def causeCode : Cause → BitVec 4
  | .illegalOp => 1#4
  | .badMode => 2#4
  | .badReg => 3#4
  | .configInvalid => 4#4

/-- `MODE[1:0]`: 0 for CONFIG, 1 for RUN (R34, R124). -/
def modeBits : Mode → BitVec 2
  | .config => 0#2
  | .run => 1#2

/-- STATUS: `zext_24(CAUSE ‖ 0b0 ‖ ERR ‖ MODE[1:0])` (R34, R124). -/
def statusWord (s : State) : RegVal :=
  (s.cause ++ (0#1 ++ (BitVec.ofBool s.err ++ modeBits s.mode))).zeroExtend 24

/-- `IDX[3:0]` (R44). -/
def idxBits (i : Fin 10) : BitVec 4 := BitVec.ofNat 4 i.val

/-- FRAME: `zext_24(BURST ‖ ACC[7:0] ‖ 0b00 ‖ PSYM ‖ SYM ‖ IDX[3:0])` (R35, R124). -/
def frameWord (s : State) : RegVal :=
  (BitVec.ofBool s.modulator.burst ++ (s.demod.acc ++ (0#2 ++ (BitVec.ofBool s.demod.psym ++
    (BitVec.ofBool s.demod.sym ++ idxBits s.demod.idx))))).zeroExtend 24

/-- `CTRL.DISC` (R29). -/
def ctrlDisc (c : ConfigRegs) : Bool := c.ctrl.getLsbD 0

/-- `CTRL.SYNC` (R29). -/
def ctrlSync (c : ConfigRegs) : Bool := c.ctrl.getLsbD 1

/-- `CTRL.WCMP` (R29). -/
def ctrlWcmp (c : ConfigRegs) : Bool := c.ctrl.getLsbD 2

/-- A symbol transition: `SYM ≠ PSYM` (R211). -/
def isTransition (q : Demod) : Bool := q.sym != q.psym

/-- A falling edge: `PSYM` = 1 and `SYM` = 0 (R211). -/
def isFallingEdge (q : Demod) : Bool := q.psym && !q.sym

end Sys2Proof.Machine
end

