-- ==== Sys2Proof/Machine/Operands.lean ====
section
/-!
DEFINITION. The operands: the register index space (spec/20_memory.md R60, R61, R72), reading and
writing it (spec/40_control.md R122 to R124), and the integer a sample stands for (spec/30_encoding.md R85).
-/
namespace Sys2Proof.Machine

/-- The first read-only register number (R61). -/
def firstReadOnly : Nat := 0xD

/-- What a write to CTRL keeps: `zext_24(V[2:0])` (R123). -/
def ctrlKept (v : RegVal) : RegVal := (v.extractLsb' 0 3).zeroExtend 24

/-- `reg[R] <- V` for a configuration register, CTRL cut to its legal bits (R122, R123).  The
read-only numbers 0xD to 0xF have no register here; WRCFG raises BAD_REG before it gets here. -/
def writeReg (c : ConfigRegs) (r : RegNo) (v : RegVal) : ConfigRegs :=
  match r.toNat with
  | 0x0 => { c with fs := v }
  | 0x1 => { c with baud := v }
  | 0x2 => { c with fmark := v }
  | 0x3 => { c with fspace := v }
  | 0x4 => { c with fcorner := v }
  | 0x5 => { c with poles := v }
  | 0x6 => { c with thrlo := v }
  | 0x7 => { c with thrhi := v }
  | 0x8 => { c with ctrl := ctrlKept v }
  | 0x9 => { c with gedge := v }
  | 0xA => { c with gbyte := v }
  | 0xB => { c with prebits := v }
  | 0xC => { c with postbits := v }
  | _ => c

/-- The value RDREG reads from register `R`: every number is defined (R61, R124). -/
def readReg (s : State) (r : RegNo) : RegVal :=
  match r.toNat with
  | 0x0 => s.cfg.fs
  | 0x1 => s.cfg.baud
  | 0x2 => s.cfg.fmark
  | 0x3 => s.cfg.fspace
  | 0x4 => s.cfg.fcorner
  | 0x5 => s.cfg.poles
  | 0x6 => s.cfg.thrlo
  | 0x7 => s.cfg.thrhi
  | 0x8 => s.cfg.ctrl
  | 0x9 => s.cfg.gedge
  | 0xA => s.cfg.gbyte
  | 0xB => s.cfg.prebits
  | 0xC => s.cfg.postbits
  | 0xD => statusWord s
  | 0xE => frameWord s
  | _ => Config.idValue

/-- `S = sext_16(cmd[15:0])`, an integer in −32768..32767 (R85). -/
def sampleInt (x : Sample) : Int := x.toInt

/-- `q[15:0]` of an integer (R244). -/
def intSample (i : Int) : Sample := BitVec.ofInt 16 i

end Sys2Proof.Machine
end

