-- ==== Sys2Proof/Machine/Numbers.lean ====
section
/-!
DEFINITION. What does not depend on the number format (spec/00_scope.md §4): the literals, the
comparisons, `FLOOR`, `RNE` and `SAT16`.
-/
namespace Sys2Proof.Machine

/-- The canonical form of `(-1)^neg * m * 2^e`: a zero has exponent 0, any other mantissa is odd. -/
def normNum (neg : Bool) (m : Nat) (e : Int) : NumVal :=
  if m = 0 then .fin neg 0 0
  else
    let t := Nat.log2 (m ^^^ (m - 1))
    .fin neg (m >>> t) (e + t)

/-- The literal `i` (exact in every `NUM`, 00_scope.md §4). -/
def numLit (i : Int) : NumVal := normNum (decide (i < 0)) i.natAbs 0

/-- The literal 0.5. -/
def numHalf : NumVal := .fin false 1 (-1)

/-- The literal 1.5. -/
def numThreeHalves : NumVal := .fin false 3 (-1)

/-- `(-1)^neg * m * 2^k` as an integer. -/
def scaledInt (neg : Bool) (m k : Nat) : Int :=
  if neg then -((m * 2 ^ k : Nat) : Int) else ((m * 2 ^ k : Nat) : Int)

/-- `a < b`, the IEEE comparison: false with a NaN operand, and the two zeros are equal. -/
def numLt : NumVal → NumVal → Bool
  | .nan, _ => false
  | .inf _, .nan => false
  | .inf s, .inf t => s && !t
  | .inf s, .fin _ _ _ => s
  | .fin _ _ _, .nan => false
  | .fin _ _ _, .inf t => !t
  | .fin s m e, .fin t n f =>
    decide (scaledInt s m (e - min e f).toNat < scaledInt t n (f - min e f).toNat)

/-- `a ≤ b`, the IEEE comparison. -/
def numLe : NumVal → NumVal → Bool
  | .nan, _ => false
  | .inf _, .nan => false
  | .inf s, .inf t => s || !t
  | .inf s, .fin _ _ _ => s
  | .fin _ _ _, .nan => false
  | .fin _ _ _, .inf t => !t
  | .fin s m e, .fin t n f =>
    decide (scaledInt s m (e - min e f).toNat ≤ scaledInt t n (f - min e f).toNat)

/-- `a == b`, the IEEE comparison. -/
def numEq (a b : NumVal) : Bool := numLe a b && numLe b a

/-- `a == 0`: true of +0 and of −0. -/
def numIsZero : NumVal → Bool
  | .nan => false
  | .inf _ => false
  | .fin _ m _ => decide (m = 0)

/-- `FLOOR(n)`: the largest integer ≤ `n`; of a NaN or an infinity a free value (log entry 4). -/
def numFloor : NumVal → Int
  | .nan => Config.floorOpen .nan
  | .inf s => Config.floorOpen (.inf s)
  | .fin s m e => scaledInt s m e.toNat / ((2 ^ (-e).toNat : Nat) : Int)

/-- `RNE(n)`: the integer nearest `n`, ties to even; of a NaN or an infinity a free value (log
entry 4). -/
def numNearest : NumVal → Int
  | .nan => Config.nearestOpen .nan
  | .inf s => Config.nearestOpen (.inf s)
  | .fin s m e =>
    let i := scaledInt s m e.toNat
    let d : Int := ((2 ^ (-e).toNat : Nat) : Int)
    let q := i / d
    let r := i % d
    if 2 * r < d then q
    else if d < 2 * r then q + 1
    else if q % 2 = 0 then q else q + 1

/-- `SAT16(i) = max(−32768, min(32767, i))`. -/
def sat16 (i : Int) : Int := max (-32768) (min 32767 i)

end Sys2Proof.Machine
end

