-- ==== Sys2Proof/Machine/Binary64.lean ====
section
/-!
DEFINITION. The arithmetic of the reference number format (spec/00_scope.md R5, spec/92_eei_decisions.md
D2): IEEE 754 binary64, round to nearest ties-to-even, no fused operation, subnormals kept.  Each
operation computes exactly on the mantissas and rounds once.
-/
namespace Sys2Proof.Machine

/-- An infinity if `m * 2^e` is 2^1024 or more, else the number itself. -/
def clip64 (neg : Bool) (m : Nat) (e : Int) : NumVal :=
  if m = 0 then .fin neg 0 0
  else if (Nat.log2 m : Int) + e ≥ 1024 then .inf neg
  else normNum neg m e

/-- `m` shifted right by `n ≥ 1` bits, rounded to nearest, ties to even. -/
def shiftNearest (m n : Nat) : Nat :=
  let hi := m >>> n
  let lo := m % 2 ^ n
  let half := 2 ^ (n - 1)
  if lo < half then hi
  else if half < lo then hi + 1
  else hi + hi % 2

/-- `(-1)^neg * m * 2^e` rounded to binary64: 53 bits, the lowest exponent −1074. -/
def round64 (neg : Bool) (m : Nat) (e : Int) : NumVal :=
  if m = 0 then .fin neg 0 0
  else
    let q : Int := max (e + (Nat.log2 m : Int) - 52) (-1074)
    if q ≤ e then clip64 neg m e
    else clip64 neg (shiftNearest m (q - e).toNat) q

def ofInt64 (i : Int) : NumVal := round64 (decide (i < 0)) i.natAbs 0

def neg64 : NumVal → NumVal
  | .nan => .nan
  | .inf s => .inf (!s)
  | .fin s m e => .fin (!s) m e

/-- The sum of two finite numbers.  An exact zero sum of operands of opposite sign is +0. -/
def addFin64 (s : Bool) (m : Nat) (e : Int) (t : Bool) (n : Nat) (f : Int) : NumVal :=
  let g := min e f
  let a := m <<< (e - g).toNat
  let b := n <<< (f - g).toNat
  if s = t then round64 s (a + b) g
  else if b < a then round64 s (a - b) g
  else if a < b then round64 t (b - a) g
  else .fin false 0 0

def add64 : NumVal → NumVal → NumVal
  | .nan, _ => .nan
  | .inf _, .nan => .nan
  | .inf s, .inf t => if s = t then .inf s else .nan
  | .inf s, .fin _ _ _ => .inf s
  | .fin _ _ _, .nan => .nan
  | .fin _ _ _, .inf t => .inf t
  | .fin s m e, .fin t n f => addFin64 s m e t n f

def sub64 (a b : NumVal) : NumVal := add64 a (neg64 b)

def mul64 : NumVal → NumVal → NumVal
  | .nan, _ => .nan
  | .inf _, .nan => .nan
  | .inf s, .inf t => .inf (s ^^ t)
  | .inf s, .fin t n _ => if n = 0 then .nan else .inf (s ^^ t)
  | .fin _ _ _, .nan => .nan
  | .fin s m _, .inf t => if m = 0 then .nan else .inf (s ^^ t)
  | .fin s m e, .fin t n f => round64 (s ^^ t) (m * n) (e + f)

/-- The quotient of two non-zero finite magnitudes: at least 55 quotient bits, and one more that is
set when the division leaves a remainder, so that the rounding sees on which side it lies. -/
def divFin64 (neg : Bool) (m : Nat) (e : Int) (n : Nat) (f : Int) : NumVal :=
  let sh := 56 + Nat.log2 n - Nat.log2 m
  let a := m <<< sh
  let sticky := if a % n = 0 then 0 else 1
  round64 neg (2 * (a / n) + sticky) (e - f - sh - 1)

def div64 : NumVal → NumVal → NumVal
  | .nan, _ => .nan
  | .inf _, .nan => .nan
  | .inf _, .inf _ => .nan
  | .inf s, .fin t _ _ => .inf (s ^^ t)
  | .fin _ _ _, .nan => .nan
  | .fin s _ _, .inf t => .fin (s ^^ t) 0 0
  | .fin s m e, .fin t n f =>
    if n = 0 then (if m = 0 then .nan else .inf (s ^^ t))
    else if m = 0 then .fin (s ^^ t) 0 0
    else divFin64 (s ^^ t) m e n f

end Sys2Proof.Machine
end

