-- ==== Sys2Proof/Machine/Transcendental.lean ====
section
/-!
DEFINITION. The transcendental functions of the reference number format (spec/00_scope.md R5,
spec/92_eei_decisions.md D3): correctly rounded `SIN`, `COS`, `TAN` and `ATAN2`, and `PI`.

Each function encloses the exact result between two fixed-point numbers and rounds both ends; when the
two roundings agree, that is the correctly rounded result, and when they differ it encloses it again
with more bits.  The bounds on the error of the enclosures are argued in log entry 2.
-/
namespace Sys2Proof.Machine

/-- ⌊π · 2^1600⌋. -/
def piBits : Nat :=
  0x3243f6a8885a308d313198a2e03707344a4093822299f31d0082efa98ec4e6c89452821e638d01377be5466cf34e90c6cc0ac29b7c97c50dd3f84d5b5b54709179216d5d98979fb1bd1310ba698dfb5ac2ffd72dbd01adfb7b8e1afed6a267e96ba7c9045f12c7f9924a19947b3916cf70801f2e2858efc16636920d871574e69a458fea3f4933d7e0d95748f728eb658718bcd5882154aee7b54a41dc25a59b59c30d5392af26013c5d1b023286085f0ca417918b8db38ef8e79dcb0603a180e6c9e0e8bb01e8a3e

/-- ⌊π · 2^p⌋ for `p ≤ 1600`. -/
def piScaled (p : Nat) : Nat := piBits >>> (1600 - p)

/-- `PI`: the binary64 value nearest π. -/
def pi64 : NumVal := round64 false (piScaled 192) (-192)

/-- An enclosure: the result lies between `lo / 2^scale` and `hi / 2^scale`, with sign `neg`. -/
structure Enclosure where
  neg : Bool
  lo : Nat
  hi : Nat
  scale : Nat
  deriving DecidableEq, Repr

/-- The enclosure of a value known to within `slack` units of its last place. -/
def around (neg : Bool) (v slack scale : Nat) : Enclosure := ⟨neg, v - slack, v + slack, scale⟩

/-- How many units of the last place the series below may be off (log entry 2). -/
def seriesSlack : Nat := 4096

/-- The rounding of the first enclosure whose two ends round alike; after the last, its lower end. -/
def roundEnclosures : List Enclosure → NumVal
  | [] => .nan
  | [c] => round64 c.neg c.lo (-(c.scale : Int))
  | c :: cs =>
    let a := round64 c.neg c.lo (-(c.scale : Int))
    if a = round64 c.neg c.hi (-(c.scale : Int)) then a else roundEnclosures cs

/-- The working precisions, in bits. -/
def precisions : List Nat := [128, 256, 512]

/-- `t − t·x/(k(k+1)) + t·x²/(k(k+1)(k+2)(k+3)) − …` with `p` fraction bits. -/
def alternatingSeries (x p : Nat) : Nat → Nat → Nat → Nat
  | 0, _, _ => 0
  | fuel + 1, k, t => t - alternatingSeries x p fuel (k + 2) (((t * x) >>> p) / (k * (k + 1)))

/-- Terms of `alternatingSeries` that reach below `2^-p` for arguments below π/2. -/
def seriesTerms (p : Nat) : Nat := p / 6 + 10

/-- `sin r` for `0 ≤ r < π/2`, with `p` fraction bits. -/
def sinFixed (p r : Nat) : Nat := alternatingSeries ((r * r) >>> p) p (seriesTerms p) 2 r

/-- `cos r` for `0 ≤ r < π/2`, with `p` fraction bits. -/
def cosFixed (p r : Nat) : Nat := alternatingSeries ((r * r) >>> p) p (seriesTerms p) 1 (1 <<< p)

/-- `m * 2^e` as `k·π/2 + r`: the quadrant `k mod 4`, and `r` with `p` fraction bits. -/
def reduceAngle (m : Nat) (e : Int) (p : Nat) : Nat × Nat :=
  let guard := (e + (Nat.log2 m : Int) + 1).toNat + 4
  let halfPi := piScaled (p + guard) / 2
  let x := m * 2 ^ (e + (p + guard : Nat)).toNat
  (x / halfPi % 4, (x % halfPi) >>> guard)

/-- `sin` of `(-1)^s * m * 2^e`, enclosed with `p` fraction bits. -/
def sinEnclosure (s : Bool) (m : Nat) (e : Int) (p : Nat) : Enclosure :=
  match reduceAngle m e p with
  | (0, r) => around s (sinFixed p r) seriesSlack p
  | (1, r) => around s (cosFixed p r) seriesSlack p
  | (2, r) => around (!s) (sinFixed p r) seriesSlack p
  | (_, r) => around (!s) (cosFixed p r) seriesSlack p

/-- `cos` of `± m * 2^e`, enclosed with `p` fraction bits. -/
def cosEnclosure (m : Nat) (e : Int) (p : Nat) : Enclosure :=
  match reduceAngle m e p with
  | (0, r) => around false (cosFixed p r) seriesSlack p
  | (1, r) => around true (sinFixed p r) seriesSlack p
  | (2, r) => around true (cosFixed p r) seriesSlack p
  | (_, r) => around false (sinFixed p r) seriesSlack p

/-- The quotient of two positive enclosed values `a` and `b` of `p` fraction bits. -/
def quotientEnclosure (neg : Bool) (a b slack p : Nat) : Enclosure :=
  if b ≤ slack then ⟨neg, 0, 1 <<< p, p⟩
  else ⟨neg, ((a - slack) <<< p) / (b + slack), ((a + slack) <<< p) / (b - slack) + 1, p⟩

/-- `tan` of `(-1)^s * m * 2^e`, enclosed with `p` fraction bits. -/
def tanEnclosure (s : Bool) (m : Nat) (e : Int) (p : Nat) : Enclosure :=
  match reduceAngle m e p with
  | (k, r) =>
    if k % 2 = 0 then quotientEnclosure s (sinFixed p r) (cosFixed p r) seriesSlack p
    else quotientEnclosure (!s) (cosFixed p r) (sinFixed p r) seriesSlack p

/-- `|x| < 2^-27`: there `sin x` and `tan x` round to `x`, and `cos x` rounds to 1. -/
def isSmallAngle (m : Nat) (e : Int) : Bool := decide (m = 0) || decide (e + (Nat.log2 m : Int) < -27)

def sin64 : NumVal → NumVal
  | .nan => .nan
  | .inf _ => .nan
  | .fin s m e =>
    if isSmallAngle m e then .fin s m e
    else roundEnclosures (precisions.map (sinEnclosure s m e))

def cos64 : NumVal → NumVal
  | .nan => .nan
  | .inf _ => .nan
  | .fin _ m e =>
    if isSmallAngle m e then numOne
    else roundEnclosures (precisions.map (cosEnclosure m e))

def tan64 : NumVal → NumVal
  | .nan => .nan
  | .inf _ => .nan
  | .fin s m e =>
    if isSmallAngle m e then .fin s m e
    else roundEnclosures (precisions.map (tanEnclosure s m e))

/-- The tail `t + t·w·k/(k+1) + …` of Euler's series for the arctangent, with `p` fraction bits. -/
def eulerSeries (w p : Nat) : Nat → Nat → Nat → Nat
  | 0, _, _ => 0
  | fuel + 1, k, t => t + eulerSeries w p fuel (k + 2) (((t * w) >>> p) * k / (k + 1))

/-- `arctan(n/d)` for `0 < n ≤ d`, with `p` fraction bits: Euler's series in `w = n²/(n² + d²) ≤ 1/2`. -/
def atanFixed (n d p : Nat) : Nat :=
  let w := ((n * n) <<< p) / (n * n + d * d)
  let t := ((n * d) <<< p) / (n * n + d * d)
  eulerSeries w p (p / max 1 (p - Nat.log2 w - 1) + 4) 2 t

/-- `arctan(n/d)` for `n/d < 2^-53`: just below the quotient `n/d`, on the near side of every number
binary64 can round to (log entry 2). -/
def tinyAtan (s : Bool) (n d : Nat) : NumVal :=
  let sh := 60 + Nat.log2 d - Nat.log2 n
  let a := n <<< sh
  let m := if a % d = 0 then 2 * (a / d) - 1 else 2 * (a / d) + 1
  round64 s m (-(sh : Int) - 1)

/-- The angle of the point with `|y| = y`, `|x| = x` (in one unit), `xneg` telling the sign of `x`,
enclosed with `p` bits. -/
def angleEnclosure (s xneg : Bool) (y x p : Nat) : Enclosure :=
  if x < y then
    let a := atanFixed x y p
    around s (if xneg then piScaled p / 2 + a else piScaled p / 2 - a) seriesSlack p
  else if xneg then around s (piScaled p - atanFixed y x p) seriesSlack p
  else
    let q := p + Nat.log2 x - Nat.log2 y
    around s (atanFixed y x q) seriesSlack q

/-- The arc tangent of two non-zero finite numbers. -/
def atan2Fin64 (s : Bool) (m : Nat) (e : Int) (t : Bool) (n : Nat) (f : Int) : NumVal :=
  let g := min e f
  let y := m <<< (e - g).toNat
  let x := n <<< (f - g).toNat
  if !t && decide (y <<< 53 < x) then tinyAtan s y x
  else roundEnclosures (precisions.map (angleEnclosure s t y x))

/-- `(-1)^s * π * k/4`, rounded. -/
def quarterPi64 (s : Bool) (k : Nat) : NumVal := round64 s (k * piScaled 192) (-194)

/-- `ATAN2(b, a)`, the principal argument of `(a, b)`; the first operand is the imaginary part. -/
def atan2_64 : NumVal → NumVal → NumVal
  | .nan, _ => .nan
  | .inf _, .nan => .nan
  | .inf s, .inf t => quarterPi64 s (if t then 3 else 1)
  | .inf s, .fin _ _ _ => quarterPi64 s 2
  | .fin _ _ _, .nan => .nan
  | .fin s _ _, .inf t => if t then quarterPi64 s 4 else .fin s 0 0
  | .fin s m e, .fin t n f =>
    if m = 0 then (if t then quarterPi64 s 4 else .fin s 0 0)
    else if n = 0 then quarterPi64 s 2
    else atan2Fin64 s m e t n f

/-- The reference number format of R5. -/
def referenceNumerics : Numerics where
  ofInt := ofInt64
  add := add64
  sub := sub64
  mul := mul64
  div := div64
  neg := neg64
  sin := sin64
  cos := cos64
  tan := tan64
  atan2 := atan2_64
  pi := pi64

/-- The operations of the number format the implementation has. -/
def NumChoice.numerics : NumChoice → Numerics
  | .reference => referenceNumerics
  | .implementation k => Config.numerics k

/-- The number format of the machine. -/
def State.numerics (s : State) : Numerics := s.impl.num.numerics

end Sys2Proof.Machine
end

