-- ==== Sys2Proof/Machine/Ops.lean ====
section
/-!
DEFINITION. The operations the meanings share: the complex primitives (spec/00_scope.md §4), emitting
events (spec/20_memory.md R66), raising an error (spec/60_exceptions.md R262), the mode gate (R264), the
resets (spec/70_reset_and_hazards.md R291), and what the environment does (R66, R277, R290).

An error is this hardware's only exception: it saves its cause in `ERR` and `CAUSE`, transfers no
control, and there is no return from it (R270).
-/
namespace Sys2Proof.Machine

/-- `cadd(a,b)`. -/
def cadd (N : Numerics) (a b : Cplx) : Cplx := ⟨N.add a.re b.re, N.add a.im b.im⟩

/-- `csub(a,b)`. -/
def csub (N : Numerics) (a b : Cplx) : Cplx := ⟨N.sub a.re b.re, N.sub a.im b.im⟩

/-- `cmul(a,b) = (a.re×b.re − a.im×b.im, a.re×b.im + a.im×b.re)`. -/
def cmul (N : Numerics) (a b : Cplx) : Cplx :=
  ⟨N.sub (N.mul a.re b.re) (N.mul a.im b.im), N.add (N.mul a.re b.im) (N.mul a.im b.re)⟩

/-- `cscale(r,a)`. -/
def cscale (N : Numerics) (r : NumVal) (a : Cplx) : Cplx := ⟨N.mul r a.re, N.mul r a.im⟩

/-- `conj(a)`. -/
def conj (N : Numerics) (a : Cplx) : Cplx := ⟨a.re, N.neg a.im⟩

/-- `abs2(a) = a.re×a.re + a.im×a.im`. -/
def abs2 (N : Numerics) (a : Cplx) : NumVal := N.add (N.mul a.re a.re) (N.mul a.im a.im)

/-- `cexp(t) = (COS(t), SIN(t))`. -/
def cexp (N : Numerics) (t : NumVal) : Cplx := ⟨N.cos t, N.sin t⟩

/-- The events appended at the end of `OUT`, in order: `emit` of each (R66). -/
def emitAll (es : List Event) (s : State) : State := { s with out := s.out ++ es.map eventWord }

/-- `emit(E)` (R66). -/
def emit (e : Event) (s : State) : State := emitAll [e] s

/-- `cmd[31:24]`, the opcode and register field of a word (R91). -/
def topByte (w : Word) : Byte := w.extractLsb' 24 8

/-- `raise Error(c)` for the command word `w`: `ERR <- 1`, `CAUSE <- c`, one ERROR event, and no
other effect (R262). -/
def raiseError (c : Cause) (w : Word) (s : State) : State :=
  emit (.error (causeCode c) (topByte w)) { s with err := true, cause := causeCode c }

/-- The mode gate of a command that needs mode `m`: in the other mode it raises BAD_MODE, before any
other check but decoding (R81, R264). -/
def requireMode (m : Mode) (i : Instr) (s : State) (effect : Result) : Result :=
  if s.mode = m then effect else .next (raiseError .badMode (encode i) s)

/-- The derived constants once they have become unspecified: free values within the types of R39,
fresh for each occasion `k` (R291, I10, log entry 12). -/
def unspecifiedDerived (k : Nat) : Derived where
  fsN := Config.freeNum k 0
  baudN := Config.freeNum k 1
  fmN := Config.freeNum k 2
  fspN := Config.freeNum k 3
  fcN := Config.freeNum k 4
  discL := Config.freeBit k 0
  syncL := Config.freeBit k 1
  wcmpL := Config.freeBit k 2
  loN := Config.freeNum k 5
  hiN := Config.freeNum k 6
  spb := Config.freeNum k 7
  spbI := (Config.freeInt k 0).toNat
  halfI := (Config.freeInt k 1).toNat
  gEdge := (Config.freeInt k 2).toNat
  gByte := (Config.freeInt k 3).toNat
  preN := (Config.freeInt k 4).toNat
  postN := (Config.freeInt k 5).toNat
  nst := (Config.freeStages k).val + 1
  coef := #v[⟨Config.freeNum k 8, Config.freeNum k 9, Config.freeNum k 10, Config.freeNum k 11, Config.freeNum k 12⟩,
    ⟨Config.freeNum k 13, Config.freeNum k 14, Config.freeNum k 15, Config.freeNum k 16, Config.freeNum k 17⟩,
    ⟨Config.freeNum k 18, Config.freeNum k 19, Config.freeNum k 20, Config.freeNum k 21, Config.freeNum k 22⟩,
    ⟨Config.freeNum k 23, Config.freeNum k 24, Config.freeNum k 25, Config.freeNum k 26, Config.freeNum k 27⟩]
  k := Config.freeNum k 28
  rotM := ⟨Config.freeNum k 29, Config.freeNum k 30⟩
  rotS := ⟨Config.freeNum k 31, Config.freeNum k 32⟩
  rotC := ⟨Config.freeNum k 33, Config.freeNum k 34⟩

/-- What both resets do (R291): every element takes its value of R54, and the derived constants
become unspecified.  `OUT` is left to the two callers; what the implementation fixes and what the
environment still does are no state of the block and stay. -/
def resetBlock (s : State) : State :=
  { s with
    cfg := ConfigRegs.reset
    mode := .config
    err := false
    cause := 0#4
    derived := unspecifiedDerived s.freeCount
    demod := Demod.initial
    modulator := Modulator.initial
    freeCount := s.freeCount + 1 }

/-- `INIT_DYNAMIC()` with the new constants committed and `MODE <- RUN`: what a successful START
does (R125, R135). -/
def startSession (d : Derived) (s : State) : State :=
  { s with
    derived := d
    demod := Demod.initial
    modulator := Modulator.initial
    mode := .run
    freeCount := s.freeCount + 1 }

/-- The environment takes one word from the front of `OUT`, if there is one (R66). -/
def hostTake (s : State) : State := { s with out := s.out.tail }

/-- Power-on reset: as RESET, and `OUT` becomes empty (R291, R290). -/
def powerOnReset (s : State) : State := { resetBlock s with out := [] }

/-- The moves that are left. -/
def setInput (ms : List HostMove) (s : State) : State := { s with input := ms }

/-- Whether there is room in `OUT` for everything the command emits, `t` being the state it would
leave; a command that emits nothing always has room (R66, D36, log entry 6). -/
def outHasRoom (s t : State) : Bool :=
  decide (t.out.length = s.out.length) || decide (t.out.length ≤ s.impl.outDepth)

/-- What a stalled block waits for: the environment's next move that is no command word, with the
moves that are left once it has been made (R66, R277, log entry 9). -/
inductive StallEnd where
  /-- A word is taken; the moves before and after it are left. -/
  | taken (left : List HostMove)
  /-- Power-on reset; only the moves after it are left. -/
  | poweredOn (left : List HostMove)
  deriving DecidableEq, Repr

/-- The first move in the list that is no command word. -/
def stallEnd : List HostMove → Option StallEnd
  | [] => none
  | .take :: ms => some (.taken ms)
  | .powerOn :: ms => some (.poweredOn ms)
  | .command w :: ms =>
    match stallEnd ms with
    | some (.taken left) => some (.taken (.command w :: left))
    | some (.poweredOn left) => some (.poweredOn left)
    | none => none

/-- One step of a stalled block: the command `w` is not consumed; the environment makes its next
move, or, when it makes none any more, the block is stuck (R66, R277). -/
def stall (w : Word) (ms : List HostMove) (s : State) : Result :=
  match stallEnd ms with
  | some (.taken left) => .next (setInput (.command w :: left) (hostTake s))
  | some (.poweredOn left) => .next (setInput left (powerOnReset s))
  | none => .fault .outStalled

/-- A command's outcome `r` from `s`, delivered if its events have room, else a stall: a command is
consumed whole or not at all (R66, R67). -/
def deliver (w : Word) (ms : List HostMove) (s : State) (r : Result) : Result :=
  match r with
  | .next t => if outHasRoom s t then .next t else stall w ms s
  | .fault f => .fault f
  | .refused f => .refused f

/-- The input with the command word `w` put in front: the next word the block consumes. -/
def pushCommand (w : Word) (s : State) : State := { s with input := .command w :: s.input }

end Sys2Proof.Machine
end

