-- ==== Sys2Proof/Machine/Filter.lean ====
section
/-!
DEFINITION. FilterDesigner and ComplexResonantFilter (spec/41_filter.md R150 to R159).
-/
namespace Sys2Proof.Machine

/-- `wc = 2 × TAN((PI × fc_n) / fs_n)` (R151). -/
def prewarpedCorner (N : Numerics) (fcN fsN : NumVal) : NumVal :=
  N.mul (numLit 2) (N.tan (N.div (N.mul N.pi fcN) fsN))

/-- `ang_i = (PI × TO_NUM(2·(i+1) + P − 1)) / TO_NUM(2·P)` (R151). -/
def poleAngle (N : Numerics) (p i : Nat) : NumVal :=
  N.div (N.mul N.pi (N.ofInt (2 * (i + 1) + p - 1))) (N.ofInt (2 * p))

/-- The analog pole `p_i = (wc × COS(ang_i), wc × SIN(ang_i))` (R151). -/
def analogPole (N : Numerics) (wc : NumVal) (p i : Nat) : Cplx :=
  ⟨N.mul wc (N.cos (poleAngle N p i)), N.mul wc (N.sin (poleAngle N p i))⟩

/-- The digital pole `q = (2 + p) / (2 − p)`, in the evaluation of R152 (90_conflicts.md C2). -/
def digitalPole (N : Numerics) (p : Cplx) : Cplx :=
  let d := N.add (N.mul (N.sub (numLit 2) p.re) (N.sub (numLit 2) p.re)) (N.mul p.im p.im)
  ⟨N.div (N.sub (N.sub (numLit 4) (N.mul p.re p.re)) (N.mul p.im p.im)) d,
    N.div (N.mul (numLit 4) p.im) d⟩

/-- The stage with the conjugate pole pair `q`: denominator (R153), numerator `[1, 2, 1]` scaled to
unity gain at DC (R154). -/
def stageOfPole (N : Numerics) (q : Cplx) : Biquad :=
  let a1 := N.mul (numLit (-2)) q.re
  let a2 := N.add (N.mul q.re q.re) (N.mul q.im q.im)
  let g := N.div (N.add (N.add (numLit 1) a1) a2) (numLit 4)
  ⟨g, N.mul (numLit 2) g, g, a1, a2⟩

/-- Stage `i` of `DESIGN(P, fc_n, fs_n)` (R150). -/
def designStage (N : Numerics) (p : Nat) (fcN fsN : NumVal) (i : Nat) : Biquad :=
  stageOfPole N (digitalPole N (analogPole N (prewarpedCorner N fcN fsN) p i))

/-- The `i`-th store of `COEF` after START: stage `i` of the design, or, from `NST` on, an unspecified
stage (R40, I11, log entry 13). -/
def coefEntry (N : Numerics) (p nst : Nat) (fcN fsN : NumVal) (k i : Nat) : Biquad :=
  if i < nst then designStage N p fcN fsN i
  else ⟨Config.freeNum k (5 * i), Config.freeNum k (5 * i + 1), Config.freeNum k (5 * i + 2),
    Config.freeNum k (5 * i + 3), Config.freeNum k (5 * i + 4)⟩

/-- `COEF` after START (R133). -/
def designCoef (N : Numerics) (p nst : Nat) (fcN fsN : NumVal) (k : Nat) : Vector Biquad Config.nstMax :=
  #v[coefEntry N p nst fcN fsN k 0, coefEntry N p nst fcN fsN k 1,
    coefEntry N p nst fcN fsN k 2, coefEntry N p nst fcN fsN k 3]

/-- The stages `0 .. NST−1`, in order. -/
def stageIndices (nst : Nat) : List (Fin Config.nstMax) :=
  List.take nst [⟨0, by decide⟩, ⟨1, by decide⟩, ⟨2, by decide⟩, ⟨3, by decide⟩]

/-- One factor of `HLP2`: `h` times the stage's response at the point with `e1 = e^{−jw}` and
`e2 = e^{−2jw}` (R156). -/
def responseStage (N : Numerics) (e1 e2 h : Cplx) (b : Biquad) : Cplx :=
  let num := cadd N (cadd N ⟨b.b0, numZero⟩ (cscale N b.b1 e1)) (cscale N b.b2 e2)
  let den := cadd N (cadd N ⟨numOne, numZero⟩ (cscale N b.a1 e1)) (cscale N b.a2 e2)
  cmul N h (cscale N (N.div (numLit 1) (abs2 N den)) (cmul N num (conj N den)))

/-- `HLP2(COEF, w)`: the squared magnitude of the cascade's response (R156). -/
def lowPassPower (N : Numerics) (coef : Vector Biquad Config.nstMax) (nst : Nat) (w : NumVal) : NumVal :=
  let e1 : Cplx := ⟨N.cos w, N.neg (N.sin w)⟩
  let e2 := cmul N e1 e1
  abs2 N ((stageIndices nst).foldl (fun h i => responseStage N e1 e2 h coef[i]) ⟨numOne, numZero⟩)

/-- One stage of `FSTEP`: the stage's output, and its two cells shifted and rotated (R157). -/
def stageStep (N : Numerics) (b : Biquad) (adv : Cplx) (c : StageCells) (y : Cplx) : Cplx × StageCells :=
  let w := csub N (csub N y (cscale N b.a1 c.c1)) (cscale N b.a2 c.c2)
  (cadd N (cadd N (cscale N b.b0 w) (cscale N b.b1 c.c1)) (cscale N b.b2 c.c2),
    ⟨cmul N w adv, cmul N c.c1 adv⟩)

/-- One turn of the loop of `FSTEP`, on the running output and the memory. -/
def filterStage (N : Numerics) (d : Derived) (adv : Cplx) (ym : Cplx × FilterMem) (i : Fin Config.nstMax) :
    Cplx × FilterMem :=
  let r := stageStep N d.coef[i] adv ym.2[i] ym.1
  (r.1, ym.2.set i r.2)

/-- `FSTEP(FMEM, adv, x)`: the branch output and the new memory (R157). -/
def filterStep (N : Numerics) (d : Derived) (mem : FilterMem) (adv : Cplx) (x : NumVal) : Cplx × FilterMem :=
  (stageIndices d.nst).foldl (filterStage N d adv) (⟨x, numZero⟩, mem)

end Sys2Proof.Machine
end

