-- ==== Sys2Proof/Machine/Control.lean ====
section
/-!
DEFINITION. The control commands NOP, RESET, WRCFG, RDREG, START and STOP (spec/40_control.md R120 to R136).
-/
namespace Sys2Proof.Machine

/-- NOP: no effect (R120). -/
def execNop (s : State) : Result := .next s

/-- RESET: the reset of R291; `OUT` keeps the words the host has not taken (R121). -/
def execReset (s : State) : Result := .next (resetBlock s)

/-- The configuration registers replaced. -/
def setCfg (c : ConfigRegs) (s : State) : State := { s with cfg := c }

/-- WRCFG R, V (R122, R123). -/
def execWrcfg (r : RegNo) (v : RegVal) (s : State) : Result :=
  requireMode .config (.wrcfg r v) s
    (if firstReadOnly ≤ r.toNat then .next (raiseError .badReg (encode (.wrcfg r v)) s)
     else .next (setCfg (writeReg s.cfg r v) s))

/-- RDREG R: one REGVAL event, no other effect (R124, R71). -/
def execRdreg (r : RegNo) (s : State) : Result := .next (emit (.regval r (readReg s r)) s)

/-- `LEGAL()`: the checks V1 to V8, in integers (R126). -/
def legalConfig (c : ConfigRegs) : Bool :=
  decide (1 ≤ c.baud.toNat) &&
  decide (2 * c.baud.toNat ≤ c.fs.toNat) &&
  (decide (c.poles.toNat = 2) || decide (c.poles.toNat = 4) || decide (c.poles.toNat = 6) ||
    decide (c.poles.toNat = 8)) &&
  (decide (1 ≤ c.fmark.toNat) && decide (2 * c.fmark.toNat < c.fs.toNat)) &&
  (decide (1 ≤ c.fspace.toNat) && decide (2 * c.fspace.toNat < c.fs.toNat)) &&
  decide (c.fmark ≠ c.fspace) &&
  (decide (1 ≤ c.fcorner.toNat) && decide (2 * c.fcorner.toNat < c.fs.toNat)) &&
  (decide (c.thrlo.toNat < 0x008000) && decide (0x008000 < c.thrhi.toNat))

/-- `TO_NUM` of a register's value. -/
def regNum (N : Numerics) (v : RegVal) : NumVal := N.ofInt (v.toNat : Int)

/-- `SPB_I = (2·FS + BAUD) div (2·BAUD)` (R131). -/
def bitPeriodInt (c : ConfigRegs) : Nat := (2 * c.fs.toNat + c.baud.toNat) / (2 * c.baud.toNat)

/-- `G_EDGE` (R132, R95). -/
def edgeGuard (c : ConfigRegs) : Nat :=
  if c.gedge = Config.auto then c.fs.toNat / (2 * c.baud.toNat) else c.gedge.toNat

/-- `G_BYTE` (R132, R95). -/
def byteGuard (c : ConfigRegs) : Nat :=
  if c.gbyte = Config.auto then bitPeriodInt c / 4 else c.gbyte.toNat

/-- `(2 × PI × (fsp_n − fm_n)) / fs_n`, evaluated left to right (R133). -/
def toneOffset (N : Numerics) (c : ConfigRegs) : NumVal :=
  N.div (N.mul (N.mul (numLit 2) N.pi) (N.sub (regNum N c.fspace) (regNum N c.fmark))) (regNum N c.fs)

/-- A rotation factor `cexp(((2 × PI) × f) / fs_n)` (R134). -/
def rotorOf (N : Numerics) (f fsN : NumVal) : Cplx := cexp N (N.div (N.mul (N.mul (numLit 2) N.pi) f) fsN)

/-- `COEF` of START, `k` naming its free values (R133). -/
def coefOf (N : Numerics) (c : ConfigRegs) (k : Nat) : Vector Biquad Config.nstMax :=
  designCoef N c.poles.toNat (c.poles.toNat / 2) (regNum N c.fcorner) (regNum N c.fs) k

/-- `T.r2`: the power gain of one branch at the other branch's tone (R133, R184). -/
def oppositeGain (N : Numerics) (c : ConfigRegs) (k : Nat) : NumVal :=
  lowPassPower N (coefOf N c k) (c.poles.toNat / 2) (toneOffset N c)

/-- `K = (0.5 × (1 + r2)) / (1 − r2)` (R133, R184). -/
def gainConstant (N : Numerics) (r2 : NumVal) : NumVal :=
  N.div (N.mul numHalf (N.add (numLit 1) r2)) (N.sub (numLit 1) r2)

/-- `DERIVE()`: the constants of R39 from the configuration registers (R127 to R134). -/
def deriveConstants (N : Numerics) (c : ConfigRegs) (k : Nat) : Derived where
  fsN := regNum N c.fs
  baudN := regNum N c.baud
  fmN := regNum N c.fmark
  fspN := regNum N c.fspace
  fcN := regNum N c.fcorner
  discL := ctrlDisc c
  syncL := ctrlSync c
  wcmpL := ctrlWcmp c
  loN := N.div (regNum N c.thrlo) (numLit 65536)
  hiN := N.div (regNum N c.thrhi) (numLit 65536)
  spb := N.div (regNum N c.fs) (regNum N c.baud)
  spbI := bitPeriodInt c
  halfI := bitPeriodInt c / 2
  gEdge := edgeGuard c
  gByte := byteGuard c
  preN := c.prebits.toNat
  postN := c.postbits.toNat
  nst := c.poles.toNat / 2
  coef := coefOf N c k
  k := gainConstant N (oppositeGain N c k)
  rotM := rotorOf N (regNum N c.fmark) (regNum N c.fs)
  rotS := rotorOf N (regNum N c.fspace) (regNum N c.fs)
  rotC := rotorOf N (N.div (N.add (regNum N c.fmark) (regNum N c.fspace)) (numLit 2)) (regNum N c.fs)

/-- Every check of START but the mode: V1 to V8, then V9, `T.r2 < 1` (R126). -/
def configAccepted (N : Numerics) (c : ConfigRegs) (k : Nat) : Bool :=
  legalConfig c && numLt (oppositeGain N c k) (numLit 1)

/-- START (R125). -/
def execStart (s : State) : Result :=
  requireMode .config .start s
    (if configAccepted s.numerics s.cfg s.freeCount then
      .next (startSession (deriveConstants s.numerics s.cfg s.freeCount) s)
     else .next (raiseError .configInvalid (encode .start) s))

/-- The mode replaced. -/
def setMode (m : Mode) (s : State) : State := { s with mode := m }

/-- STOP: `MODE <- CONFIG` and nothing else (R136). -/
def execStop (s : State) : Result :=
  requireMode .run .stop s (.next (setMode .config s))

end Sys2Proof.Machine
end

