-- ==== Sys2Proof/Machine/Discriminator.lean ====
section
/-!
DEFINITION. The Discriminator (spec/42_discriminator.md R180 to R190).  Each strategy answers the
decision value and the demodulator state with its filter memory, and `FM_PREV`, written.
-/
namespace Sys2Proof.Machine

/-- The PR decision value of the two branch powers (R182, R183). -/
def powerRatio (N : Numerics) (k mm ss : NumVal) : NumVal :=
  let tot := N.add mm ss
  if numIsZero tot then numHalf
  else N.add numHalf (N.div (N.mul k (N.sub mm ss)) tot)

/-- `PR_STEP(x)` (R181 to R183, R159). -/
def powerRatioStep (N : Numerics) (d : Derived) (x : NumVal) (q : Demod) : NumVal × Demod :=
  let rm := filterStep N d q.fmemM d.rotM x
  let rs := filterStep N d q.fmemS d.rotS x
  (powerRatio N d.k (abs2 N rm.1) (abs2 N rs.1), { q with fmemM := rm.2, fmemS := rs.2 })

/-- The phase angle of `d`: 0 of (0, 0), and a zero imaginary part of either sign read as +0 (R186). -/
def phaseAngle (N : Numerics) (d : Cplx) : NumVal :=
  if numIsZero d.re && numIsZero d.im then numZero
  else N.atan2 (if numIsZero d.im then numZero else d.im) d.re

/-- The FM decision value of a phase angle (R187). -/
def phaseDecision (N : Numerics) (d : Derived) (ph : NumVal) : NumVal :=
  let off := N.div (N.mul ph d.fsN) (N.mul (numLit 2) N.pi)
  N.add numHalf (N.div off (N.sub d.fmN d.fspN))

/-- `FM_STEP(x)` (R185 to R188, R159): branch M at the tone midpoint. -/
def phaseStep (N : Numerics) (d : Derived) (x : NumVal) (q : Demod) : NumVal × Demod :=
  let r := filterStep N d q.fmemM d.rotC x
  let p := cmul N r.1 (conj N (cmul N q.fmPrev d.rotC))
  (phaseDecision N d (phaseAngle N p), { q with fmemM := r.2, fmPrev := r.1 })

/-- `DISCRIMINATE(x)` (R180). -/
def discriminate (N : Numerics) (d : Derived) (x : NumVal) (q : Demod) : NumVal × Demod :=
  if d.discL then phaseStep N d x q else powerRatioStep N d x q

end Sys2Proof.Machine
end

