-- ==== Sys2Proof/Machine/Framer.lean ====
section
/-!
DEFINITION. The ByteFramer (spec/44_framer.md R210 to R223).  A step answers the new demodulator state
and the events it emits.
-/
namespace Sys2Proof.Machine

/-- `sat(v + 1, AGE_MAX)` (R212). -/
def ageOneMore (v : Nat) : Nat := min (v + 1) Config.ageMax

/-- The age counters after a sample: both one more, then `EAGE` zeroed at a transition (R212). -/
def ageStep (q : Demod) : Demod :=
  { q with
    eage := if isTransition q then 0 else ageOneMore q.eage
    bage := ageOneMore q.bage }

/-- The start window on the age of a falling edge (R213). -/
def windowPasses (d : Derived) (age : Nat) : Bool :=
  if d.wcmpL then decide (age = d.gEdge) else decide (d.gEdge ≤ age)

/-- Whether IDLE accepts a start bit: a falling edge that passes the window and, in CB, comes late
enough after the last frame (R213 to R215).  `age` is `age_at_edge`, `bage` the counter after R212. -/
def startAccepted (d : Derived) (q : Demod) (age bage : Nat) : Bool :=
  isFallingEdge q && windowPasses d age && (!d.syncL || decide (d.gByte ≤ bage))

/-- The acceptance: `IDX <- 0`, and the policy's counter set (R214, R215). -/
def acceptStart (N : Numerics) (d : Derived) (q : Demod) : Demod :=
  if d.syncL then { q with idx := 0, bitage := -(d.halfI : Int) }
  else { q with idx := 0, cd := N.mul numThreeHalves d.spb }

/-- `ACC | (SYM << IDX)` (R221). -/
def accWithBit (q : Demod) : Byte :=
  q.acc ||| ((BitVec.ofBool q.sym).zeroExtend 8 <<< q.idx.val)

/-- `TICK()`: a data tick with `IDX` ≤ 7, the stop check with `IDX` = 8 (R221, R222). -/
def tick (q : Demod) : Demod × List Event :=
  if q.idx.val ≤ 7 then ({ q with acc := accWithBit q, idx := q.idx + 1 }, [])
  else
    ({ q with acc := 0#8, idx := 9, bage := 0 },
      [if q.sym then .byte q.acc else .discard q.acc])

/-- FRAMING in the fractional-countdown policy (R217, R218). -/
def countdownStep (N : Numerics) (d : Derived) (trans : Bool) (q : Demod) : Demod × List Event :=
  let cd := if trans then N.mul numHalf d.spb else N.sub q.cd (numLit 1)
  if numLe cd numHalf then tick { q with cd := N.add cd d.spb }
  else ({ q with cd := cd }, [])

/-- FRAMING in the counter-based policy (R219, R220). -/
def counterStep (d : Derived) (trans : Bool) (q : Demod) : Demod × List Event :=
  let age : Int := if trans then (d.spbI : Int) - d.halfI else q.bitage + 1
  if age = d.spbI then tick { q with bitage := 0 }
  else ({ q with bitage := age }, [])

/-- `FRAMER_STEP()` (R210). -/
def framerStep (N : Numerics) (d : Derived) (q : Demod) : Demod × List Event :=
  let aged := ageStep q
  if q.idx = 9 then
    if startAccepted d q (ageOneMore q.eage) aged.bage then (acceptStart N d aged, [])
    else (aged, [])
  else if d.syncL then counterStep d (isTransition q) aged
  else countdownStep N d (isTransition q) aged

end Sys2Proof.Machine
end

