-- ==== Sys2Proof/Machine/Slicer.lean ====
section
/-!
DEFINITION. The SymbolSlicer (spec/43_slicer.md R200, R201).
-/
namespace Sys2Proof.Machine

/-- `SLICE(s, v)`: strict comparisons, and a NaN flips nothing (R200). -/
def slice (lo hi : NumVal) (s : Bool) (v : NumVal) : Bool :=
  if s && numLt v lo then false
  else if !s && numLt hi v then true
  else s

/-- `PSYM <- SYM`, then `SYM <- SLICE(SYM, v)` (R201, R160). -/
def sliceStep (d : Derived) (v : NumVal) (q : Demod) : Demod :=
  { q with psym := q.sym, sym := slice d.loN d.hiN q.sym v }

end Sys2Proof.Machine
end

