-- ==== Sys2Proof/Machine/Demodulate.lean ====
section
/-!
DEFINITION. The DEMOD command (spec/41_filter.md R160, R161).
-/
namespace Sys2Proof.Machine

/-- `x = TO_NUM(S) / 32768` (R161). -/
def scaledSample (N : Numerics) (x : Sample) : NumVal := N.div (N.ofInt (sampleInt x)) (numLit 32768)

/-- One sample through the decode path: discriminator, slicer, framer (R160). -/
def demodStep (N : Numerics) (d : Derived) (x : Sample) (q : Demod) : Demod × List Event :=
  let r := discriminate N d (scaledSample N x) q
  framerStep N d (sliceStep d r.1 r.2)

/-- The demodulator state replaced. -/
def setDemod (q : Demod) (s : State) : State := { s with demod := q }

/-- DEMOD S (R160). -/
def execDemod (x : Sample) (s : State) : Result :=
  requireMode .run (.demod x) s
    (let r := demodStep s.numerics s.derived x s.demod
     .next (emitAll r.2 (setDemod r.1 s)))

end Sys2Proof.Machine
end

