-- ==== Sys2Proof/Machine/Modulate.lean ====
section
/-!
DEFINITION. The Modulator and the commands MODBYTE and MODPOST (spec/45_modulator.md R240 to R251).
-/
namespace Sys2Proof.Machine

/-- The output sample of a carrier: `SAT16(RNE(32767 × CAR.im))` (R245). -/
def carrierSample (N : Numerics) (car : Cplx) : Sample :=
  intSample (sat16 (numNearest (N.mul (numLit 32767) car.im)))

/-- The carrier rotated, then renormalised (R244, R246). -/
def advanceCarrier (N : Numerics) (rot car : Cplx) : Cplx :=
  let c := cmul N car rot
  cscale N (N.mul (N.sub (numLit 3) (abs2 N c)) numHalf) c

/-- `repeat n times: SAMPLE_STEP(rot)`: the carrier after it and the events, each emitted before the
carrier moves (R243, R244). -/
def sampleRun (N : Numerics) (rot : Cplx) : Nat → Cplx → Cplx × List Event
  | 0, car => (car, [])
  | n + 1, car =>
    let r := sampleRun N rot n (advanceCarrier N rot car)
    (r.1, .sample (carrierSample N car) :: r.2)

/-- The rotor of a symbol: mark is symbol 1 (R247). -/
def symbolRotor (d : Derived) (sym : Bool) : Cplx := if sym then d.rotM else d.rotS

/-- `SYMBOL(s)` (R243). -/
def sendSymbol (N : Numerics) (d : Derived) (sym : Bool) (m : Modulator) : Modulator × List Event :=
  let t := N.add m.mt d.spb
  let n := numFloor t
  let r := sampleRun N (symbolRotor d sym) n.toNat m.car
  ({ m with car := r.1, mt := N.sub t (N.ofInt n) }, r.2)

/-- Symbols sent one after the other. -/
def sendSymbols (N : Numerics) (d : Derived) : List Bool → Modulator → Modulator × List Event
  | [], m => (m, [])
  | b :: bs, m =>
    let r := sendSymbol N d b m
    let t := sendSymbols N d bs r.1
    (t.1, r.2 ++ t.2)

/-- The ten symbols of a byte's 8N1 frame: start 0, the data bits LSB first, stop 1 (R93, R240). -/
def frameSymbols (b : Byte) : List Bool :=
  [false, b.getLsbD 0, b.getLsbD 1, b.getLsbD 2, b.getLsbD 3, b.getLsbD 4, b.getLsbD 5, b.getLsbD 6,
    b.getLsbD 7, true]

/-- The automatic preamble, if this is the first byte of a burst: `PRE_N` marks, then `BURST <- 1`
(R240, R241). -/
def preamble (N : Numerics) (d : Derived) (m : Modulator) : Modulator × List Event :=
  if m.burst then (m, [])
  else
    let r := sendSymbols N d (List.replicate d.preN true) m
    ({ r.1 with burst := true }, r.2)

/-- What MODBYTE sends (R240). -/
def modbyteStep (N : Numerics) (d : Derived) (b : Byte) (m : Modulator) : Modulator × List Event :=
  let p := preamble N d m
  let r := sendSymbols N d (frameSymbols b) p.1
  (r.1, p.2 ++ r.2)

/-- What MODPOST sends: `POST_N` marks, then `BURST <- 0` (R249). -/
def modpostStep (N : Numerics) (d : Derived) (m : Modulator) : Modulator × List Event :=
  let r := sendSymbols N d (List.replicate d.postN true) m
  ({ r.1 with burst := false }, r.2)

/-- The modulator state replaced. -/
def setModulator (m : Modulator) (s : State) : State := { s with modulator := m }

/-- MODBYTE B (R240). -/
def execModbyte (b : Byte) (s : State) : Result :=
  requireMode .run (.modbyte b) s
    (let r := modbyteStep s.numerics s.derived b s.modulator
     .next (emitAll r.2 (setModulator r.1 s)))

/-- MODPOST (R249). -/
def execModpost (s : State) : Result :=
  requireMode .run .modpost s
    (let r := modpostStep s.numerics s.derived s.modulator
     .next (emitAll r.2 (setModulator r.1 s)))

end Sys2Proof.Machine
end

