-- ==== Sys2Proof/Machine/Dispatch.lean ====
section
/-! DEFINITION. The meaning of every command, one arm per constructor of `Instr`. -/
namespace Sys2Proof.Machine

def exec (i : Instr) (s : State) : Host.Outcome State Fault Refusal :=
  match i with
  | .nop => Sys2Proof.Machine.execNop s
  | .reset => Sys2Proof.Machine.execReset s
  | .wrcfg r v => Sys2Proof.Machine.execWrcfg r v s
  | .rdreg r => Sys2Proof.Machine.execRdreg r s
  | .start => Sys2Proof.Machine.execStart s
  | .stop => Sys2Proof.Machine.execStop s
  | .demod x => Sys2Proof.Machine.execDemod x s
  | .modbyte b => Sys2Proof.Machine.execModbyte b s
  | .modpost => Sys2Proof.Machine.execModpost s

end Sys2Proof.Machine
end

