-- ==== Sys2Proof/Machine/Step.lean ====
section
/-!
DEFINITION. One step of the block: it makes the environment's next move, and a command word is decoded
and run (spec/20_memory.md R66, R67; spec/30_encoding.md R84; spec/60_exceptions.md R276, R277).
-/
namespace Sys2Proof.Machine

/-- The effect of a command word: the command it decodes to, or ILLEGAL_OP (R83, R84, R264). -/
def runWord (w : Word) (s : State) : Result :=
  match decode w with
  | .ok i => exec i s
  | .error _ => .next (raiseError .illegalOp w s)

/-- One step.  With no move left the block is idle and keeps all state (R276). -/
def step (s : State) : Host.Outcome State Fault Refusal :=
  match s.input with
  | [] => .next s
  | .take :: ms => .next (setInput ms (hostTake s))
  | .powerOn :: ms => .next (setInput ms (powerOnReset s))
  | .command w :: ms => deliver w ms s (runWord w (setInput ms s))

/-- `s` with the command word of a table row as the next word the block consumes. -/
def State.withFetchWord (s : State) (nbits w : Nat) : State := pushCommand (tableWord nbits w) s

end Sys2Proof.Machine
end

