-- ==== Sys2Proof/WellFormed.lean ====
section
/-!
DEFINITION. Which commands can be written: the operand ranges of spec/30_encoding.md R96.  An operand
outside its range cannot be assembled; it is refused, never truncated.
-/
namespace Sys2Proof

/-- One command as it is written, before encoding: operands are integers, not yet cut to their
fields (R96). -/
inductive AsmCommand where
  | nop
  | reset
  | wrcfg (reg value : Int)
  | rdreg (reg : Int)
  | start
  | stop
  | demod (sample : Int)
  | modbyte (byte : Int)
  | modpost
  deriving DecidableEq, Repr

namespace AsmCommand

/-- A register operand is a number 0..15 (R96, R61). -/
def regInRange (r : Int) : Bool := decide (0 ≤ r) && decide (r ≤ 15)

/-- A value operand is an integer 0..0xFFFFFF (R96). -/
def valueInRange (v : Int) : Bool := decide (0 ≤ v) && decide (v ≤ 0xFFFFFF)

/-- A sample operand is an integer −32768..32767 (R96). -/
def sampleInRange (x : Int) : Bool := decide (-32768 ≤ x) && decide (x ≤ 32767)

/-- A byte operand is an integer 0..255 (R96). -/
def byteInRange (b : Int) : Bool := decide (0 ≤ b) && decide (b ≤ 255)

/-- Every operand is in its range. -/
def wellFormed : AsmCommand → Bool
  | .nop => true
  | .reset => true
  | .wrcfg r v => regInRange r && valueInRange v
  | .rdreg r => regInRange r
  | .start => true
  | .stop => true
  | .demod x => sampleInRange x
  | .modbyte b => byteInRange b
  | .modpost => true

end AsmCommand

namespace Instr

/-- The command as R96 writes it. -/
def toAsm : Instr → AsmCommand
  | .nop => .nop
  | .reset => .reset
  | .wrcfg r v => .wrcfg r.toNat v.toNat
  | .rdreg r => .rdreg r.toNat
  | .start => .start
  | .stop => .stop
  | .demod x => .demod x.toInt
  | .modbyte b => .modbyte b.toNat
  | .modpost => .modpost

/-- A command is well formed when every operand, read as R85 reads it, is in the range of R96.  The
field widths already give those ranges, so every `Instr` is (Laws/PerInstr.lean); the check has its
content on `AsmCommand`. -/
def wellFormed (i : Instr) : Bool := i.toAsm.wellFormed

end Instr
end Sys2Proof
end

