-- ==== Sys2Proof/Machine/Assembler.lean ====
section
/-!
DEFINITION. The assembler: one command per line, and the pseudo-instructions (spec/30_encoding.md R96, R97).
The block itself sees only whole command words; `step` calls nothing of this file.
-/
namespace Sys2Proof.Machine

/-- The names of the registers, number 0x0 first (R72). -/
def registerNames : List String :=
  ["FS", "BAUD", "FMARK", "FSPACE", "FCORNER", "POLES", "THRLO", "THRHI", "CTRL", "GEDGE", "GBYTE",
    "PREBITS", "POSTBITS", "STATUS", "FRAME", "ID"]

/-- The command of a written line; an operand outside its range is refused, never truncated (R96). -/
def assemble (a : AsmCommand) : Option Instr :=
  if a.wellFormed then
    match a with
    | .nop => some .nop
    | .reset => some .reset
    | .wrcfg r v => some (.wrcfg (BitVec.ofInt 4 r) (BitVec.ofInt 24 v))
    | .rdreg r => some (.rdreg (BitVec.ofInt 4 r))
    | .start => some .start
    | .stop => some .stop
    | .demod x => some (.demod (BitVec.ofInt 16 x))
    | .modbyte b => some (.modbyte (BitVec.ofInt 8 b))
    | .modpost => some .modpost
  else none

/-- A threshold as SETTHR writes it: `mant / 10^digits`. -/
structure Decimal where
  mant : Nat
  digits : Nat
  deriving DecidableEq, Repr

/-- `round(x × 65536)`: to nearest, a tie upward (R97, log entry 23). -/
def Decimal.toQ16 (x : Decimal) : Int :=
  ((2 * x.mant * 65536 + 10 ^ x.digits) / (2 * 10 ^ x.digits) : Nat)

/-- The pseudo-instructions (R97). -/
inductive Pseudo where
  | profile (fs baud fmark fspace : Int)
  | setctrl (disc sync wcmp : Nat)
  | setthr (lo hi : Decimal)
  | send (bytes : List Int)
  | demodn (samples : List Int)
  deriving DecidableEq, Repr

/-- The expansion of a pseudo-instruction, no more than these commands (R97). -/
def Pseudo.expand : Pseudo → List AsmCommand
  | .profile fs baud fmark fspace => [.wrcfg 0 fs, .wrcfg 1 baud, .wrcfg 2 fmark, .wrcfg 3 fspace]
  | .setctrl disc sync wcmp => [.wrcfg 8 ((wcmp <<< 2 ||| sync <<< 1 ||| disc : Nat) : Int)]
  | .setthr lo hi => [.wrcfg 6 lo.toQ16, .wrcfg 7 hi.toQ16]
  | .send bs => bs.map AsmCommand.modbyte ++ [.modpost]
  | .demodn xs => xs.map AsmCommand.demod

/-- A token of a line: a word, a comma, or a character literal. -/
inductive Token where
  | word (cs : List Char)
  | comma
  | chr (c : Char)
  deriving DecidableEq, Repr

/-- The word collected so far (in reverse), as a token, if it is not empty. -/
def flushWord (acc : List Char) : List Token := if acc.isEmpty then [] else [.word acc.reverse]

/-- The tokens of a line; `;` starts a comment (R96). -/
def lexLine : List Char → List Char → List Token
  | [], acc => flushWord acc
  | '\'' :: c :: '\'' :: cs, acc => flushWord acc ++ .chr c :: lexLine cs []
  | c :: cs, acc =>
    if c = ';' then flushWord acc
    else if c = ',' then flushWord acc ++ .comma :: lexLine cs []
    else if c = ' ' ∨ c = '\t' ∨ c = '\n' ∨ c = '\r' then flushWord acc ++ lexLine cs []
    else lexLine cs (c :: acc)

/-- The value of a digit in a base up to 16. -/
def digitValue (base : Nat) (c : Char) : Option Nat :=
  let n := c.toNat
  let v := if 48 ≤ n ∧ n ≤ 57 then n - 48 else if 65 ≤ n ∧ n ≤ 70 then n - 55
    else if 97 ≤ n ∧ n ≤ 102 then n - 87 else 16
  if v < base then some v else none

/-- A run of digits, at least one. -/
def natOfDigits (base : Nat) (cs : List Char) : Option Nat :=
  if cs.isEmpty then none
  else cs.foldl (fun acc c => match acc, digitValue base c with
    | some a, some d => some (a * base + d)
    | _, _ => none) (some 0)

/-- A non-negative integer: decimal, or hexadecimal after `0x`. -/
def natOfWord : List Char → Option Nat
  | '0' :: 'x' :: cs => natOfDigits 16 cs
  | cs => natOfDigits 10 cs

/-- An integer, with an optional minus sign. -/
def intOfWord : List Char → Option Int
  | '-' :: cs => (natOfWord cs).map (fun n => -(n : Int))
  | cs => (natOfWord cs).map (fun n => (n : Int))

/-- A decimal such as `0.3`. -/
def decimalOfWord (cs : List Char) : Option Decimal :=
  let whole := cs.takeWhile (· != '.')
  let frac := (cs.dropWhile (· != '.')).drop 1
  (natOfDigits 10 (whole ++ frac)).map (fun m => ⟨m, frac.length⟩)

/-- A register operand: a name of R72, or a number. -/
def regOperand : Token → Option Int
  | .word cs =>
    match registerNames.findIdx? (fun n => n.toList == cs) with
    | some i => some i
    | none => intOfWord cs
  | _ => none

/-- A value or sample operand. -/
def intOperand : Token → Option Int
  | .word cs => intOfWord cs
  | _ => none

/-- A byte operand: an integer or a character literal (R96).  A literal stands for its character's
Unicode code point, which R96 shows for ASCII characters only (DESIGN CHOICE, log entry 23). -/
def byteOperand : Token → Option Int
  | .word cs => intOfWord cs
  | .chr c => some c.toNat
  | .comma => none

/-- A bit operand of SETCTRL. -/
def bitOperand : Token → Option Nat
  | .word cs => natOfWord cs
  | _ => none

/-- A threshold operand of SETTHR. -/
def decimalOperand : Token → Option Decimal
  | .word cs => decimalOfWord cs
  | _ => none

/-- The operands of a line: tokens with a comma between each two. -/
def operandList : List Token → Option (List Token)
  | [] => some []
  | [.comma] => none
  | [t] => some [t]
  | t :: .comma :: u :: ts => if t = .comma then none else (operandList (u :: ts)).map (t :: ·)
  | _ => none

/-- The commands of a mnemonic with its operands: one command, or the expansion of a
pseudo-instruction (R96, R97). -/
def commandOf (mnemonic : List Char) (ops : List Token) : Option (List AsmCommand) :=
  if mnemonic = "NOP".toList ∧ ops = [] then some [.nop]
  else if mnemonic = "RESET".toList ∧ ops = [] then some [.reset]
  else if mnemonic = "START".toList ∧ ops = [] then some [.start]
  else if mnemonic = "STOP".toList ∧ ops = [] then some [.stop]
  else if mnemonic = "MODPOST".toList ∧ ops = [] then some [.modpost]
  else if mnemonic = "SEND".toList ∧ ops ≠ [] then (ops.mapM byteOperand).map (fun bs => (Pseudo.send bs).expand)
  else if mnemonic = "DEMODN".toList ∧ ops ≠ [] then (ops.mapM intOperand).map (fun xs => (Pseudo.demodn xs).expand)
  else
    match ops with
    | [a] =>
      if mnemonic = "RDREG".toList then (regOperand a).map (fun r => [.rdreg r])
      else if mnemonic = "DEMOD".toList then (intOperand a).map (fun x => [.demod x])
      else if mnemonic = "MODBYTE".toList then (byteOperand a).map (fun b => [.modbyte b])
      else none
    | [a, b] =>
      if mnemonic = "WRCFG".toList then
        (regOperand a).bind (fun r => (intOperand b).map (fun v => [.wrcfg r v]))
      else if mnemonic = "SETTHR".toList then
        (decimalOperand a).bind (fun lo => (decimalOperand b).map (fun hi => (Pseudo.setthr lo hi).expand))
      else none
    | [a, b, c] =>
      if mnemonic = "SETCTRL".toList then
        (bitOperand a).bind (fun d => (bitOperand b).bind (fun y => (bitOperand c).map (fun w =>
          (Pseudo.setctrl d y w).expand)))
      else none
    | [a, b, c, d] =>
      if mnemonic = "PROFILE".toList then
        (intOperand a).bind (fun fs => (intOperand b).bind (fun bd => (intOperand c).bind (fun fm =>
          (intOperand d).map (fun fsp => (Pseudo.profile fs bd fm fsp).expand))))
      else none
    | _ => none

/-- The commands of a line: none for an empty line or a comment; refused when it is not of the form
of R96 or an operand is out of range. -/
def assembleLine (line : List Char) : Option (List Instr) :=
  match lexLine line [] with
  | [] => some []
  | .word m :: ts =>
    (operandList ts).bind (fun ops => (commandOf m ops).bind (fun as => as.mapM assemble))
  | _ => none

end Sys2Proof.Machine
end

