-- ==== Sys2Proof/Machine/HostAdapter.lean ====
section
/-!
DEFINITION. What the host does with byte streams, and with the events it takes (spec/20_memory.md R62 to
R65, spec/60_exceptions.md R266, R268).  These are functions beside the block: `step` calls none of them.
-/
namespace Sys2Proof.Machine

/-- The samples of a decode input byte stream: `s[n] = sext_16(B[2n+1] ‖ B[2n])`; an odd byte at the
end is dropped (R64, R266). -/
def samplesOfBytes : List Byte → List Sample
  | lo :: hi :: bs => (hi ++ lo) :: samplesOfBytes bs
  | _ => []

/-- The two bytes of an output sample, the low one first (R64). -/
def bytesOfSample (x : Sample) : List Byte := [x.extractLsb' 0 8, x.extractLsb' 8 8]

/-- The DEMOD commands the host issues for a decode input byte stream (R64). -/
def demodCommands (bs : List Byte) : List Instr := (samplesOfBytes bs).map Instr.demod

/-- The bytes the host writes to the decode output sink for one event (R268). -/
def sinkBytes (e : Event) : List Byte :=
  match e with
  | .byte b => [b]
  | _ => []

/-- The bytes the host writes to the encode output for one event (R268, R64). -/
def encodeBytes (e : Event) : List Byte :=
  match e with
  | .sample x => bytesOfSample x
  | _ => []

/-- A lower-case hexadecimal digit. -/
def hexDigit (n : Nat) : Char := if n < 10 then Char.ofNat (48 + n) else Char.ofNat (87 + n)

/-- A byte as exactly two lower-case hexadecimal digits, `%02x` (R268). -/
def hexByte (b : Byte) : List Char := [hexDigit (b.toNat / 16), hexDigit (b.toNat % 16)]

/-- The line the host writes to the diagnostic stream for one event; `diagName` is the host parameter
`DIAG_NAME` (R268, R5). -/
def diagnosticLine (diagName : List Char) (e : Event) : Option (List Char) :=
  match e with
  | .discard b =>
    some ("warning: ".toList ++ diagName ++ ": discarding possible 0x".toList ++ hexByte b ++ ['\n'])
  | _ => none

/-- The events of a run of event words. -/
def eventsOf (ws : List Word) : List Event := ws.filterMap eventOfWord

/-- The whole decode output of a run of event words, in event order (R268). -/
def decodeOutput (ws : List Word) : List Byte := (eventsOf ws).flatMap sinkBytes

/-- The whole encode output of a run of event words (R268). -/
def encodeOutput (ws : List Word) : List Byte := (eventsOf ws).flatMap encodeBytes

/-- The whole diagnostic output of a run of event words: one line per discarded frame (R268). -/
def diagnosticOutput (diagName : List Char) (ws : List Word) : List (List Char) :=
  (eventsOf ws).filterMap (diagnosticLine diagName)

end Sys2Proof.Machine
end

