-- ==== Sys2Proof/Safety.lean ====
section
/-!
DEFINITION. What counts as a legal state and as a safe run, in the terms the claims use: what the rules
of spec/ promise of every state a run reaches.
-/
namespace Sys2Proof.Machine

/-- CTRL's reserved bits 23:3 read 0 (R29, R123). -/
def CtrlLegal (s : State) : Prop := s.cfg.ctrl.extractLsb' 3 21 = 0#21

/-- `CAUSE` is a code of R261, and `ERR` is set exactly when there has been an error (R34, R38). -/
def CauseLegal (s : State) : Prop := s.cause.toNat ≤ 4 ∧ (s.err = true ↔ s.cause ≠ 0#4)

/-- An event the block may emit: an ERROR event carries one of the causes 1 to 4 (R92, R261). -/
def EventLegal : Event → Prop
  | .error c _ => 1 ≤ c.toNat ∧ c.toNat ≤ 4
  | .sample _ => True
  | .byte _ => True
  | .discard _ => True
  | .regval _ _ => True

/-- Every word of `OUT` is the word of an event the block may emit (R92). -/
def OutLegal (s : State) : Prop := ∀ w ∈ s.out, ∃ e, EventLegal e ∧ w = eventWord e

/-- `OUT` holds no more than its capacity (R66). -/
def OutWithinDepth (s : State) : Prop := s.out.length ≤ s.impl.outDepth

/-- The age counters stay within 24 bits (R48, R212). -/
def AgesLegal (s : State) : Prop := s.demod.eage ≤ Config.ageMax ∧ s.demod.bage ≤ Config.ageMax

/-- `ACC` is 0 in IDLE, and in FRAMING it holds no bit that no tick has written (R45, R216, R221). -/
def AccLegal (s : State) : Prop :=
  (s.demod.idx = 9 → s.demod.acc = 0#8) ∧ s.demod.acc.toNat < 2 ^ s.demod.idx.val

/-- The state of the strategy that is not latched stays as START left it: `FM_PREV` in PR, `FMEM_S`
in FM (R41, R42, R159). -/
def StrategyLegal (s : State) : Prop :=
  (s.derived.discL = false → s.demod.fmPrev = cplxZero) ∧
  (s.derived.discL = true → s.demod.fmemS = filterMemZero)

/-- The counter of the policy that is not latched stays as START left it: `BITAGE` in FC, `CD` in CB
(R46, R47). -/
def PolicyLegal (s : State) : Prop :=
  (s.derived.syncL = false → s.demod.bitage = 0) ∧ (s.derived.syncL = true → s.demod.cd = numZero)

/-- `BITAGE` lies in `−HALF_I .. SPB_I` (R47), and below `SPB_I` between the commands of a session. -/
def BitageLegal (s : State) : Prop :=
  -(s.derived.halfI : Int) ≤ s.demod.bitage ∧ s.demod.bitage ≤ s.derived.spbI ∧
  (s.mode = .run → s.demod.bitage < s.derived.spbI)

/-- In RUN the configuration is one START accepts, and the derived constants are those it derives
from the configuration registers as they stand (R124, R125, R267). -/
def SessionLegal (s : State) : Prop :=
  s.mode = .run → ∃ k, configAccepted s.numerics s.cfg k = true ∧ s.derived = deriveConstants s.numerics s.cfg k

/-- The legal states: all of the above. -/
structure Inv (s : State) : Prop where
  ctrl : CtrlLegal s
  cause : CauseLegal s
  out : OutLegal s
  depth : OutWithinDepth s
  ages : AgesLegal s
  acc : AccLegal s
  strategy : StrategyLegal s
  policy : PolicyLegal s
  bitage : BitageLegal s
  session : SessionLegal s

/-- A step that goes on: the block's only stop is the stall no host ends (R66, R277). -/
def StepsOn (s : State) : Prop := ∃ t, step s = .next t

/-- Ticks taken with the given symbols, one after the other, with the events they emit. -/
def tickAll : List Bool → Demod → Demod × List Event
  | [], q => (q, [])
  | b :: bs, q =>
    let r := tick { q with sym := b }
    let u := tickAll bs r.1
    (u.1, r.2 ++ u.2)

end Sys2Proof.Machine
end

