-- ==== Sys2Proof/Certificates/Slice0/Obligations.lean ====
section
/-!
DEFINITION. The statements for the provers.  Each one's docstring names the rules of spec/ it formalises.
Where a statement speaks of `N`, it holds for every number format the machine may have.
-/

open Sys2Proof Sys2Proof.Machine

/-! ## Encoding -/

/-- R82, R85: the decoder reads every operand back, at every value the formats admit. -/
def Obligations.DecodeOfEncodeIsTheCommand : Prop :=
  ∀ i : Instr, decode (encode i) = .ok i

/-- R82 to R85: a word that decodes is exactly the word of its command. -/
def Obligations.EncodeOfDecodeIsTheWord : Prop :=
  ∀ (w : Word) (i : Instr), decode w = .ok i → encode i = w

/-- R82: "No two rows match one word". -/
def Obligations.NoTwoRowsMatchOneWord : Prop :=
  ∀ (w : Word) (r₁ r₂ : OpcodeRow), r₁ ∈ opcodeRows → r₂ ∈ opcodeRows →
    w &&& r₁.mask = r₁.pattern → w &&& r₂.mask = r₂.pattern → r₁ = r₂

/-- R83, R84: every word is a row of R82, and runs its command, or raises ILLEGAL_OP with no other
effect; the words with `OP` in 0x9..0xF are among the latter. -/
def Obligations.EveryWordIsARowOrRaisesIllegalOp : Prop :=
  ∀ (w : Word) (s : State),
    ((∃ i, ∃ r ∈ opcodeRows, r.mnemonic = i.mnemonic ∧ w &&& r.mask = r.pattern ∧
        decode w = .ok i ∧ runWord w s = exec i s) ∨
      ((∀ r ∈ opcodeRows, w &&& r.mask ≠ r.pattern) ∧
        runWord w s = .next { s with
          err := true, cause := 1#4,
          out := s.out ++ [0xE#4 ++ (1#4 ++ (0#16 ++ w.extractLsb' 24 8))] })) ∧
    (9 ≤ (w.extractLsb' 28 4).toNat → ∀ r ∈ opcodeRows, w &&& r.mask ≠ r.pattern)

/-- R81, R82 on words written out from the formats of R80. -/
def Obligations.SpecWordsDecode : Prop :=
  decode 0x00000000#32 = .ok .nop ∧ decode 0x10000000#32 = .ok .reset ∧
  decode 0x20001F40#32 = .ok (.wrcfg 0x0#4 8000#24) ∧ decode 0x3F000000#32 = .ok (.rdreg 0xF#4) ∧
  decode 0x40000000#32 = .ok .start ∧ decode 0x50000000#32 = .ok .stop ∧
  decode 0x60008000#32 = .ok (.demod 0x8000#16) ∧ decode 0x70000041#32 = .ok (.modbyte 0x41#8) ∧
  decode 0x80000000#32 = .ok .modpost

/-- R86 to R91: the layout of each event word, and that the host reads every event back from its word. -/
def Obligations.EventWordsReadBack : Prop :=
  (∀ e : Event, eventOfWord (eventWord e) = some e) ∧
  (∀ x : Sample, eventWord (.sample x) = 0x1#4 ++ (0#12 ++ x)) ∧
  (∀ b : Byte, eventWord (.byte b) = 0x2#4 ++ (0#20 ++ b)) ∧
  (∀ b : Byte, eventWord (.discard b) = 0x3#4 ++ (0#20 ++ b)) ∧
  (∀ (r : RegNo) (v : RegVal), eventWord (.regval r v) = 0x4#4 ++ (r ++ v)) ∧
  (∀ (c : BitVec 4) (b : Byte), eventWord (.error c b) = 0xE#4 ++ (c ++ (0#16 ++ b)))

/-- R62, R65: on a byte transport a word is four bytes, the lowest first, and is taken only whole. -/
def Obligations.WordsAreLittleEndianAndWhole : Prop :=
  (∀ (w : Word) (rest : List Byte),
    decodeBytes (w.extractLsb' 0 8 :: w.extractLsb' 8 8 :: w.extractLsb' 16 8 :: w.extractLsb' 24 8 :: rest) =
      match decode w with
      | .ok i => .command i rest
      | .error e => .illegal e w rest) ∧
  (∀ bs : List Byte, bs.length < 4 → decodeBytes bs = .incomplete)

/-! ## Steps and ports -/

/-- R66, R67, R83, R84: the next command word runs on the state without that word, and its effect is the
step, when its events have room in `OUT`.  A word that decodes runs its command, and any other has the
effect of ILLEGAL_OP.  The model's choice (DESIGN CHOICE, log entry 6): a word that emits nothing has
room even when `OUT` is full. -/
def Obligations.StepRunsTheDecodedCommand : Prop :=
  ∀ (s t : State) (w : Word) (ms : List HostMove), s.input = .command w :: ms →
    ((runWord w { s with input := ms } = .next t →
        (t.out.length ≤ s.impl.outDepth ∨ t.out.length = s.out.length) → step s = .next t) ∧
      (∀ i : Instr, decode w = .ok i → exec i { s with input := ms } = .next t →
        (t.out.length ≤ s.impl.outDepth ∨ t.out.length = s.out.length) → step s = .next t) ∧
      (∀ e : DecodeError, decode w = .error e → s.out.length < s.impl.outDepth →
        step s = .next { s with
          input := ms, err := true, cause := 1#4
          out := s.out ++ [0xE#4 ++ (1#4 ++ (0#16 ++ w.extractLsb' 24 8))] }))

/-- R66, R67, R277 as log entries 6, 7 and 9 (DESIGN CHOICE) read them: a command whose events do not fit
is not consumed.  The step is the host's next move that is no command word: a take, which leaves the
command in front, or power-on reset, which drops it and the commands before the reset; with only
commands to come it is the named stop. -/
def Obligations.CommandWithoutRoomIsNotConsumed : Prop :=
  ∀ (s u : State) (w : Word) (ms : List HostMove),
    s.input = .command w :: ms → runWord w { s with input := ms } = .next u →
    s.impl.outDepth < u.out.length → u.out.length ≠ s.out.length →
    (∀ pre post : List HostMove, (∀ m ∈ pre, ∃ v, m = .command v) → ms = pre ++ .take :: post →
      step s = .next { s with out := s.out.tail, input := .command w :: (pre ++ post) }) ∧
    (∀ pre post : List HostMove, (∀ m ∈ pre, ∃ v, m = .command v) → ms = pre ++ .powerOn :: post →
      step s = step { s with input := .powerOn :: post }) ∧
    ((∀ m ∈ ms, ∃ v, m = .command v) → step s = .fault .outStalled)

/-- R66, R277, R260: a step stops only in a stall that no move of the host ends, and never refuses. -/
def Obligations.OnlyAStallStopsAStep : Prop :=
  ∀ s : State,
    (∀ f, step s = .fault f → ∃ w ms u, s.input = .command w :: ms ∧ (∀ m ∈ ms, ∃ v, m = .command v) ∧
      runWord w { s with input := ms } = .next u ∧ s.impl.outDepth < u.out.length) ∧
    (∀ r, step s ≠ .refused r)

/-- R276 (and R269, R272): with no move of the host to come the block keeps all state. -/
def Obligations.IdleBlockKeepsAllState : Prop :=
  ∀ s : State, s.input = [] → step s = .next s

/-- R66: events are appended at the end of `OUT`, the host takes from its front, and nothing else
removes a word. -/
def Obligations.OutIsAFifo : Prop :=
  (∀ (w : Word) (s t : State), runWord w s = .next t → ∃ ws, t.out = s.out ++ ws) ∧
  (∀ (s : State) (ms : List HostMove), s.input = .take :: ms →
    step s = .next { s with out := s.out.tail, input := ms })

/-- R290, R291, R54: power-on reset.  The implementation's parameters and the host's later moves are
no state of the block. -/
def Obligations.PowerOnResetSetsEveryElement : Prop :=
  ∀ (s : State) (ms : List HostMove), s.input = .powerOn :: ms →
    ∃ d : Derived, step s = .next {
      cfg := { fs := 11025#24, baud := 300#24, fmark := 1270#24, fspace := 1070#24, fcorner := 150#24,
               poles := 4#24, thrlo := 0x004000#24, thrhi := 0x00C000#24, ctrl := 0#24,
               gedge := 0xFFFFFF#24, gbyte := 0xFFFFFF#24, prebits := 10#24, postbits := 2#24 }
      mode := .config, err := false, cause := 0#4, derived := d
      demod := { fmemM := Vector.replicate 4 ⟨cplxZero, cplxZero⟩, fmemS := Vector.replicate 4 ⟨cplxZero, cplxZero⟩,
                 fmPrev := cplxZero, sym := true, psym := true, idx := 9, acc := 0#8, cd := numZero,
                 bitage := 0, eage := 0, bage := 0 }
      modulator := { car := ⟨numOne, numZero⟩, mt := numZero, burst := false }
      out := [], input := ms, impl := s.impl, freeCount := s.freeCount + 1 }

/-! ## Control commands -/

/-- R120: NOP has no effect in either mode; with any of bits 27:0 set the word raises ILLEGAL_OP. -/
def Obligations.NopHasNoEffect : Prop :=
  ∀ s : State, exec .nop s = .next s ∧ runWord 0x00000000#32 s = .next s ∧
    ∀ w : Word, w.extractLsb' 28 4 = 0#4 → w.extractLsb' 0 28 ≠ 0#28 →
      runWord w s = .next { s with
        err := true, cause := 1#4, out := s.out ++ [0xE#4 ++ (1#4 ++ (0#16 ++ w.extractLsb' 24 8))] }

/-- R121, R291, R54: the RESET command, in either mode; `OUT` keeps its words.  With any of bits 27:0
set the word raises ILLEGAL_OP and resets nothing. -/
def Obligations.ResetSetsEveryElementButOut : Prop :=
  ∀ s : State, (∃ d : Derived, exec .reset s = .next {
      cfg := { fs := 11025#24, baud := 300#24, fmark := 1270#24, fspace := 1070#24, fcorner := 150#24,
               poles := 4#24, thrlo := 0x004000#24, thrhi := 0x00C000#24, ctrl := 0#24,
               gedge := 0xFFFFFF#24, gbyte := 0xFFFFFF#24, prebits := 10#24, postbits := 2#24 }
      mode := .config, err := false, cause := 0#4, derived := d
      demod := { fmemM := Vector.replicate 4 ⟨cplxZero, cplxZero⟩, fmemS := Vector.replicate 4 ⟨cplxZero, cplxZero⟩,
                 fmPrev := cplxZero, sym := true, psym := true, idx := 9, acc := 0#8, cd := numZero,
                 bitage := 0, eage := 0, bage := 0 }
      modulator := { car := ⟨numOne, numZero⟩, mt := numZero, burst := false }
      out := s.out, input := s.input, impl := s.impl, freeCount := s.freeCount + 1 }) ∧
    ∀ w : Word, w.extractLsb' 28 4 = 1#4 → w.extractLsb' 0 28 ≠ 0#28 →
      runWord w s = .next { s with
        err := true, cause := 1#4, out := s.out ++ [0xE#4 ++ (1#4 ++ (0#16 ++ w.extractLsb' 24 8))] }

/-- R72, R292: after either reset, and in `State.reset`, RDREG of each register returns its reset value. -/
def Obligations.RegistersReadTheirResetValues : Prop :=
  ∀ s t : State, (exec .reset s = .next t ∨ t = State.reset) →
    (List.range 16).map (fun r => (readReg t (BitVec.ofNat 4 r)).toNat) =
      [11025, 300, 1270, 1070, 150, 4, 0x004000, 0x00C000, 0, 0xFFFFFF, 0xFFFFFF, 10, 2,
        0x000000, 0x000039, 0x46534B]

/-- R122, R123: WRCFG writes its register and nothing else (CTRL keeps bits 2:0), or raises BAD_MODE
in RUN whatever `R` is, or BAD_REG for a read-only register in CONFIG. -/
def Obligations.WrcfgWritesItsRegisterOnly : Prop :=
  ∀ (s : State) (r : RegNo) (v : RegVal),
    (s.mode ≠ .config → exec (.wrcfg r v) s = .next { s with
      err := true, cause := 2#4, out := s.out ++ [0xE#4 ++ (2#4 ++ (0#16 ++ (0x2#4 ++ r)))] }) ∧
    (s.mode = .config → 0xD ≤ r.toNat → exec (.wrcfg r v) s = .next { s with
      err := true, cause := 3#4, out := s.out ++ [0xE#4 ++ (3#4 ++ (0#16 ++ (0x2#4 ++ r)))] }) ∧
    (s.mode = .config → r.toNat < 0xD → ∃ c : ConfigRegs,
      exec (.wrcfg r v) s = .next { s with cfg := c } ∧
      readReg { s with cfg := c } r = (if r = 0x8#4 then (v.extractLsb' 0 3).zeroExtend 24 else v) ∧
      ∀ r' : RegNo, r' ≠ r → readReg { s with cfg := c } r' = readReg s r')

/-- R123: what CTRL reads back after a write. -/
def Obligations.CtrlReadsBackItsLegalBits : Prop :=
  ∀ (s : State) (v : RegVal), s.mode = .config →
    ∃ c : ConfigRegs, exec (.wrcfg 0x8#4 v) s = .next { s with cfg := c } ∧
      exec (.rdreg 0x8#4) { s with cfg := c } = .next { s with
        cfg := c, out := s.out ++ [0x48000000#32 ||| (v.extractLsb' 0 3).zeroExtend 32] }

/-- R124, R71: RDREG emits REGVAL with the register's value, in either mode, and changes nothing else. -/
def Obligations.RdregReportsTheRegister : Prop :=
  ∀ (s : State) (r : RegNo),
    exec (.rdreg r) s = .next { s with out := s.out ++ [0x4#4 ++ (r ++
      (match r.toNat with
        | 0x0 => s.cfg.fs | 0x1 => s.cfg.baud | 0x2 => s.cfg.fmark | 0x3 => s.cfg.fspace
        | 0x4 => s.cfg.fcorner | 0x5 => s.cfg.poles | 0x6 => s.cfg.thrlo | 0x7 => s.cfg.thrhi
        | 0x8 => s.cfg.ctrl | 0x9 => s.cfg.gedge | 0xA => s.cfg.gbyte | 0xB => s.cfg.prebits
        | 0xC => s.cfg.postbits
        | 0xD => (s.cause ++ (0#1 ++ (BitVec.ofBool s.err ++
            (match s.mode with | .config => 0#2 | .run => 1#2)))).zeroExtend 24
        | 0xE => (BitVec.ofBool s.modulator.burst ++ (s.demod.acc ++ (0#2 ++ (BitVec.ofBool s.demod.psym ++
            (BitVec.ofBool s.demod.sym ++ BitVec.ofNat 4 s.demod.idx.val))))).zeroExtend 24
        | _ => 0x46534B#24))] }

/-- R34, R35: the fields of STATUS and FRAME stand where the tables put them; reserved fields read 0. -/
def Obligations.StatusAndFrameFields : Prop :=
  ∀ s : State,
    ((readReg s 0xD#4).extractLsb' 0 2 = (match s.mode with | .config => 0#2 | .run => 1#2) ∧
      (readReg s 0xD#4).getLsbD 2 = s.err ∧ (readReg s 0xD#4).getLsbD 3 = false ∧
      (readReg s 0xD#4).extractLsb' 4 4 = s.cause ∧ (readReg s 0xD#4).extractLsb' 8 16 = 0#16) ∧
    ((readReg s 0xE#4).extractLsb' 0 4 = BitVec.ofNat 4 s.demod.idx.val ∧
      (readReg s 0xE#4).getLsbD 4 = s.demod.sym ∧ (readReg s 0xE#4).getLsbD 5 = s.demod.psym ∧
      (readReg s 0xE#4).extractLsb' 6 2 = 0#2 ∧ (readReg s 0xE#4).extractLsb' 8 8 = s.demod.acc ∧
      (readReg s 0xE#4).getLsbD 16 = s.modulator.burst ∧ (readReg s 0xE#4).extractLsb' 17 7 = 0#7)

/-- R126: the checks V1 to V9, each in the integers the table gives, decide whether START succeeds; any
failure raises CONFIG_INVALID with no other effect. -/
def Obligations.StartMakesEveryLegalityCheck : Prop :=
  ∀ (s : State) (legal : Prop), s.mode = .config →
    (legal ↔ (1 ≤ s.cfg.baud.toNat ∧ 2 * s.cfg.baud.toNat ≤ s.cfg.fs.toNat ∧
      s.cfg.poles.toNat ∈ [2, 4, 6, 8] ∧
      (1 ≤ s.cfg.fmark.toNat ∧ 2 * s.cfg.fmark.toNat < s.cfg.fs.toNat) ∧
      (1 ≤ s.cfg.fspace.toNat ∧ 2 * s.cfg.fspace.toNat < s.cfg.fs.toNat) ∧
      s.cfg.fmark ≠ s.cfg.fspace ∧
      (1 ≤ s.cfg.fcorner.toNat ∧ 2 * s.cfg.fcorner.toNat < s.cfg.fs.toNat) ∧
      s.cfg.thrlo.toNat < 0x008000 ∧ 0x008000 < s.cfg.thrhi.toNat ∧
      numLt (oppositeGain s.numerics s.cfg s.freeCount) numOne = true)) →
    (legal → ∃ t, exec .start s = .next t ∧ t.mode = .run ∧ t.out = s.out) ∧
    (¬ legal → exec .start s = .next { s with
      err := true, cause := 4#4, out := s.out ++ [0xE#4 ++ (4#4 ++ (0#16 ++ 0x40#8))] })

/-- R125, R135, R294: a START that passes its checks commits new constants, performs INIT_DYNAMIC and
enters RUN; it changes no configuration register, `ERR`, `CAUSE` or `OUT`. -/
def Obligations.StartBeginsASession : Prop :=
  ∀ s : State, s.mode = .config → configAccepted s.numerics s.cfg s.freeCount = true →
    ∃ d : Derived, exec .start s = .next { s with
      derived := d, mode := .run, freeCount := s.freeCount + 1
      demod := { fmemM := Vector.replicate 4 ⟨cplxZero, cplxZero⟩, fmemS := Vector.replicate 4 ⟨cplxZero, cplxZero⟩,
                 fmPrev := cplxZero, sym := true, psym := true, idx := 9, acc := 0#8, cd := numZero,
                 bitage := 0, eage := 0, bage := 0 }
      modulator := { car := ⟨numOne, numZero⟩, mt := numZero, burst := false } }

/-- R127 to R132: the numeric, strategy, threshold and integer constants START latches. -/
def Obligations.StartLatchesScalarConstants : Prop :=
  ∀ s : State, s.mode = .config → configAccepted s.numerics s.cfg s.freeCount = true →
    ∃ t, exec .start s = .next t ∧
      t.derived.fsN = s.numerics.ofInt s.cfg.fs.toNat ∧ t.derived.baudN = s.numerics.ofInt s.cfg.baud.toNat ∧
      t.derived.fmN = s.numerics.ofInt s.cfg.fmark.toNat ∧ t.derived.fspN = s.numerics.ofInt s.cfg.fspace.toNat ∧
      t.derived.fcN = s.numerics.ofInt s.cfg.fcorner.toNat ∧
      t.derived.discL = s.cfg.ctrl.getLsbD 0 ∧ t.derived.syncL = s.cfg.ctrl.getLsbD 1 ∧
      t.derived.wcmpL = s.cfg.ctrl.getLsbD 2 ∧
      t.derived.loN = s.numerics.div (s.numerics.ofInt s.cfg.thrlo.toNat) (numLit 65536) ∧
      t.derived.hiN = s.numerics.div (s.numerics.ofInt s.cfg.thrhi.toNat) (numLit 65536) ∧
      t.derived.spb = s.numerics.div t.derived.fsN t.derived.baudN ∧
      t.derived.spbI = (2 * s.cfg.fs.toNat + s.cfg.baud.toNat) / (2 * s.cfg.baud.toNat) ∧
      t.derived.halfI = t.derived.spbI / 2 ∧ 2 ≤ t.derived.spbI ∧ 1 ≤ t.derived.halfI ∧
      t.derived.gEdge = (if s.cfg.gedge = 0xFFFFFF#24 then s.cfg.fs.toNat / (2 * s.cfg.baud.toNat)
        else s.cfg.gedge.toNat) ∧
      t.derived.gByte = (if s.cfg.gbyte = 0xFFFFFF#24 then t.derived.spbI / 4 else s.cfg.gbyte.toNat) ∧
      t.derived.preN = s.cfg.prebits.toNat ∧ t.derived.postN = s.cfg.postbits.toNat

/-- R133, R150 to R154: the biquad stages START designs, from the analog pole of each. -/
def Obligations.StartDesignsTheFilter : Prop :=
  ∀ s : State, s.mode = .config → configAccepted s.numerics s.cfg s.freeCount = true →
    ∃ t, exec .start s = .next t ∧ t.derived.nst = s.cfg.poles.toNat / 2 ∧
      ∀ i : Fin 4, i.val < t.derived.nst → ∀ N : Numerics, N = s.numerics →
        ∀ wc ang pr im d qr qi g : NumVal,
        wc = N.mul (numLit 2) (N.tan (N.div (N.mul N.pi t.derived.fcN) t.derived.fsN)) →
        ang = N.div (N.mul N.pi (N.ofInt (2 * (i.val + 1) + s.cfg.poles.toNat - 1))) (N.ofInt (2 * s.cfg.poles.toNat)) →
        pr = N.mul wc (N.cos ang) → im = N.mul wc (N.sin ang) →
        d = N.add (N.mul (N.sub (numLit 2) pr) (N.sub (numLit 2) pr)) (N.mul im im) →
        qr = N.div (N.sub (N.sub (numLit 4) (N.mul pr pr)) (N.mul im im)) d →
        qi = N.div (N.mul (numLit 4) im) d →
        g = N.div (N.add (N.add (numLit 1) t.derived.coef[i].a1) t.derived.coef[i].a2) (numLit 4) →
        t.derived.coef[i].a1 = N.mul (numLit (-2)) qr ∧
        t.derived.coef[i].a2 = N.add (N.mul qr qr) (N.mul qi qi) ∧
        t.derived.coef[i].b0 = g ∧ t.derived.coef[i].b1 = N.mul (numLit 2) g ∧ t.derived.coef[i].b2 = g

/-- R134: the rotation factors. -/
def Obligations.StartDerivesRotors : Prop :=
  ∀ s : State, s.mode = .config → configAccepted s.numerics s.cfg s.freeCount = true →
    ∃ t, exec .start s = .next t ∧
      ∀ (N : Numerics) (a b c : NumVal), N = s.numerics →
        a = N.div (N.mul (N.mul (numLit 2) N.pi) t.derived.fmN) t.derived.fsN →
        b = N.div (N.mul (N.mul (numLit 2) N.pi) t.derived.fspN) t.derived.fsN →
        c = N.div (N.mul (N.mul (numLit 2) N.pi) (N.div (N.add t.derived.fmN t.derived.fspN) (numLit 2)))
          t.derived.fsN →
        t.derived.rotM = ⟨N.cos a, N.sin a⟩ ∧ t.derived.rotS = ⟨N.cos b, N.sin b⟩ ∧
        t.derived.rotC = ⟨N.cos c, N.sin c⟩

/-- R133, R156, R184: `K` from the designed stages' response at the tone offset.  `h j` is the value of
the loop variable of R156 after `j` stages. -/
def Obligations.StartDerivesTheGainConstant : Prop :=
  ∀ s : State, s.mode = .config → configAccepted s.numerics s.cfg s.freeCount = true →
    ∃ t, exec .start s = .next t ∧
      ∃ h : Nat → Cplx, h 0 = ⟨numOne, numZero⟩ ∧
        ∀ (N : Numerics) (w r2 : NumVal) (e1 e2 : Cplx), N = s.numerics →
          w = N.div (N.mul (N.mul (numLit 2) N.pi) (N.sub t.derived.fspN t.derived.fmN)) t.derived.fsN →
          e1 = ⟨N.cos w, N.neg (N.sin w)⟩ → e2 = cmul N e1 e1 →
          (∀ (j : Nat) (hj : j < 4), j < t.derived.nst → ∀ num den : Cplx,
            num = cadd N (cadd N ⟨t.derived.coef[j].b0, numZero⟩ (cscale N t.derived.coef[j].b1 e1))
              (cscale N t.derived.coef[j].b2 e2) →
            den = cadd N (cadd N ⟨numOne, numZero⟩ (cscale N t.derived.coef[j].a1 e1))
              (cscale N t.derived.coef[j].a2 e2) →
            h (j + 1) = cmul N (h j) (cscale N (N.div numOne (abs2 N den)) (cmul N num (conj N den)))) ∧
          (r2 = abs2 N (h t.derived.nst) →
            t.derived.k = N.div (N.mul numHalf (N.add numOne r2)) (N.sub numOne r2) ∧ numLt r2 numOne = true)

/-- R136: STOP changes MODE only; in CONFIG it raises BAD_MODE; with any of bits 27:0 set the word
raises ILLEGAL_OP. -/
def Obligations.StopLeavesTheSession : Prop :=
  ∀ s : State,
    (s.mode = .run → exec .stop s = .next { s with mode := .config }) ∧
    (s.mode ≠ .run → exec .stop s = .next { s with
      err := true, cause := 2#4, out := s.out ++ [0xE2000050#32] }) ∧
    ∀ w : Word, w.extractLsb' 28 4 = 5#4 → w.extractLsb' 0 28 ≠ 0#28 →
      runWord w s = .next { s with
        err := true, cause := 1#4, out := s.out ++ [0xE#4 ++ (1#4 ++ (0#16 ++ w.extractLsb' 24 8))] }

/-! ## Errors -/

/-- R81, R262, R263: START and WRCFG in RUN, and STOP, DEMOD, MODBYTE and MODPOST in CONFIG, raise
BAD_MODE and do nothing else. -/
def Obligations.WrongModeRaisesBadMode : Prop :=
  ∀ (s : State) (i : Instr),
    ((s.mode = .run ∧ (i = .start ∨ ∃ r v, i = .wrcfg r v)) ∨
      (s.mode = .config ∧ (i = .stop ∨ i = .modpost ∨ (∃ x, i = .demod x) ∨ ∃ b, i = .modbyte b))) →
    exec i s = .next { s with
      err := true, cause := 2#4,
      out := s.out ++ [0xE#4 ++ (2#4 ++ (0#16 ++ (encode i).extractLsb' 24 8))] }

/-- R38, R260, R262: a word that is not RESET either leaves `ERR` and `CAUSE` as they were and emits no
ERROR event, or raises one error: it sets both, emits one ERROR event with the cause and bits 31:24 of
the word, and changes nothing else. -/
def Obligations.AWordRunsOrRaisesOneError : Prop :=
  ∀ (w : Word) (s : State), decode w ≠ .ok .reset → ∃ t, runWord w s = .next t ∧
    ((t.err = s.err ∧ t.cause = s.cause ∧
        ∃ ws : List Word, t.out = s.out ++ ws ∧ ∀ v ∈ ws, v.extractLsb' 28 4 ≠ 0xE#4) ∨
      ∃ c : BitVec 4, 1 ≤ c.toNat ∧ c.toNat ≤ 4 ∧
        t = { s with err := true, cause := c,
                     out := s.out ++ [0xE#4 ++ (c ++ (0#16 ++ w.extractLsb' 24 8))] })

/-- R260, R277: every command of the table has a next state, whatever the state. -/
def Obligations.NoCommandStops : Prop :=
  ∀ (i : Instr) (s : State), ∃ t, exec i s = .next t

/-! ## Who writes what -/

/-- R37: START enters RUN from CONFIG, STOP enters CONFIG, RESET sets CONFIG, and no other command
changes MODE. -/
def Obligations.ModeIsChangedByThreeCommandsOnly : Prop :=
  ∀ (i : Instr) (s t : State), exec i s = .next t → t.mode ≠ s.mode →
    (i = .start ∧ s.mode = .config ∧ t.mode = .run) ∨ (i = .stop ∧ s.mode = .run ∧ t.mode = .config) ∨
    (i = .reset ∧ t.mode = .config)

/-- R122, R121, R267: a configuration register changes only by WRCFG in CONFIG or by RESET, so never
in a session. -/
def Obligations.ConfigurationIsFixedInASession : Prop :=
  ∀ (i : Instr) (s t : State), exec i s = .next t → t.cfg ≠ s.cfg →
    i = .reset ∨ (s.mode = .config ∧ ∃ r v, i = .wrcfg r v)

/-- R39, R295: the derived constants change only by START in CONFIG or by RESET. -/
def Obligations.ConstantsAreLatchedByStart : Prop :=
  ∀ (i : Instr) (s t : State), exec i s = .next t → t.derived ≠ s.derived →
    i = .reset ∨ (i = .start ∧ s.mode = .config ∧ t.mode = .run)

/-- R55: the demodulator state changes only by DEMOD, START and RESET, the modulator state only by
MODBYTE, MODPOST, START and RESET.  Within DEMOD, the filter and the discriminator write filter memory
and `FM_PREV` (the filter returns memory only, and PR keeps `FM_PREV`), the slicer `SYM` and `PSYM`, and
the framer `IDX`, `ACC`, `CD`, `BITAGE`, `EAGE` and `BAGE`. -/
def Obligations.UnitsOwnTheirState : Prop :=
  (∀ (i : Instr) (s t : State), exec i s = .next t →
    (t.demod ≠ s.demod → i = .reset ∨ i = .start ∨ ∃ x, i = .demod x) ∧
    (t.modulator ≠ s.modulator → i = .reset ∨ i = .start ∨ i = .modpost ∨ ∃ b, i = .modbyte b)) ∧
  (∀ (N : Numerics) (d : Derived) (x : NumVal) (q : Demod), ∃ (mm ms : FilterMem) (p : Cplx),
    (discriminate N d x q).2 = { q with fmemM := mm, fmemS := ms, fmPrev := p } ∧
    (∃ adv, mm = (filterStep N d q.fmemM adv x).2) ∧
    (ms = q.fmemS ∨ ∃ adv, ms = (filterStep N d q.fmemS adv x).2) ∧
    (d.discL = false → p = q.fmPrev)) ∧
  (∀ (d : Derived) (v : NumVal) (q : Demod), ∃ a b : Bool, sliceStep d v q = { q with sym := a, psym := b }) ∧
  (∀ (N : Numerics) (d : Derived) (q : Demod),
    ∃ (idx : Fin 10) (acc : Byte) (cd : NumVal) (bitage : Int) (eage bage : Nat),
      (framerStep N d q).1 =
        { q with idx := idx, acc := acc, cd := cd, bitage := bitage, eage := eage, bage := bage }) ∧
  (∀ (s t : State) (x : Sample), s.mode = .run → exec (.demod x) s = .next t →
    ∃ v : NumVal, t.demod = (framerStep s.numerics s.derived (sliceStep s.derived v
      (discriminate s.numerics s.derived (scaledSample s.numerics x) s.demod).2)).1)

/-- R5: no step writes what the implementation fixes. -/
def Obligations.StepKeepsTheImplementation : Prop :=
  ∀ s t : State, step s = .next t → t.impl = s.impl

/-! ## The decode path -/

/-- R160, R161, R180, R200, R201, R210: in RUN, DEMOD changes demodulator state only.  With `v` and `u` the
decision value and the state the discriminator answers for the scaled sample, `PSYM` takes the old `SYM`,
`SYM` is sliced from `v`, and the new demodulator state and the events are those of one framer step from
there: nothing, one BYTE or one DISCARD. -/
def Obligations.DemodTakesOneSample : Prop :=
  ∀ (s : State) (x : Sample) (v : NumVal) (u : Demod) (sym : Bool), s.mode = .run →
    (v, u) = discriminate s.numerics s.derived
      (s.numerics.div (s.numerics.ofInt x.toInt) (numLit 32768)) s.demod →
    sym = (if s.demod.sym = true ∧ numLt v s.derived.loN = true then false
      else if s.demod.sym = false ∧ numLt s.derived.hiN v = true then true else s.demod.sym) →
    ∃ (q : Demod) (es : List Event),
      exec (.demod x) s = .next { s with demod := q, out := s.out ++ es.map eventWord } ∧
      (q, es) = framerStep s.numerics s.derived { u with psym := s.demod.sym, sym := sym } ∧
      (es = [] ∨ ∃ b, es = [.byte b] ∨ es = [.discard b]) ∧
      q.psym = s.demod.sym ∧ q.sym = sym

/-- R159, R42, R188: which branch memory a DEMOD clocks, with which rotor, and who writes `FM_PREV`. -/
def Obligations.StrategyClocksItsBranches : Prop :=
  ∀ (s : State) (x : Sample), s.mode = .run → ∃ t, exec (.demod x) s = .next t ∧
    ∀ (N : Numerics) (xn : NumVal), N = s.numerics → xn = N.div (N.ofInt x.toInt) (numLit 32768) →
      (s.derived.discL = false →
        t.demod.fmemM = (filterStep N s.derived s.demod.fmemM s.derived.rotM xn).2 ∧
        t.demod.fmemS = (filterStep N s.derived s.demod.fmemS s.derived.rotS xn).2 ∧
        t.demod.fmPrev = s.demod.fmPrev) ∧
      (s.derived.discL = true →
        t.demod.fmemM = (filterStep N s.derived s.demod.fmemM s.derived.rotC xn).2 ∧
        t.demod.fmemS = s.demod.fmemS ∧
        t.demod.fmPrev = (filterStep N s.derived s.demod.fmemM s.derived.rotC xn).1)

/-- R157: FSTEP, stage by stage.  `y j` is the input of stage `j`; the cells of the stages from `NST`
on are neither read nor written. -/
def Obligations.FilterStepRunsTheCascade : Prop :=
  ∀ (N : Numerics) (d : Derived) (mem : FilterMem) (adv : Cplx) (x : NumVal), d.nst ≤ 4 →
    ∃ y : Nat → Cplx, y 0 = ⟨x, numZero⟩ ∧ (filterStep N d mem adv x).1 = y d.nst ∧
      ∀ (i : Nat) (hi : i < 4),
        (i < d.nst → ∀ w : Cplx,
          w = csub N (csub N (y i) (cscale N d.coef[i].a1 mem[i].c1)) (cscale N d.coef[i].a2 mem[i].c2) →
          y (i + 1) = cadd N (cadd N (cscale N d.coef[i].b0 w) (cscale N d.coef[i].b1 mem[i].c1))
            (cscale N d.coef[i].b2 mem[i].c2) ∧
          (filterStep N d mem adv x).2[i] = ⟨cmul N w adv, cmul N mem[i].c1 adv⟩) ∧
        (d.nst ≤ i → (filterStep N d mem adv x).2[i] = mem[i])

/-- R181 to R183: the power-ratio decision value, with its exact-zero guard. -/
def Obligations.PowerRatioDecision : Prop :=
  ∀ (N : Numerics) (d : Derived) (q : Demod) (x mm ss tot : NumVal), d.discL = false →
    mm = abs2 N (filterStep N d q.fmemM d.rotM x).1 → ss = abs2 N (filterStep N d q.fmemS d.rotS x).1 →
    tot = N.add mm ss →
    (numEq tot numZero = true → (discriminate N d x q).1 = numHalf) ∧
    (numEq tot numZero = false →
      (discriminate N d x q).1 = N.add numHalf (N.div (N.mul d.k (N.sub mm ss)) tot))

/-- R185 to R188: the phase-difference decision value, with the angle of (0, 0) and of a zero
imaginary part of either sign. -/
def Obligations.PhaseDifferenceDecision : Prop :=
  ∀ (N : Numerics) (d : Derived) (q : Demod) (x ph : NumVal) (y p : Cplx), d.discL = true →
    y = (filterStep N d q.fmemM d.rotC x).1 → p = cmul N y (conj N (cmul N q.fmPrev d.rotC)) →
    ((numEq p.re numZero = true ∧ numEq p.im numZero = true ∧ ph = numZero) ∨
      (numEq p.re numZero = false ∧ numEq p.im numZero = true ∧ ph = N.atan2 numZero p.re) ∨
      (numEq p.im numZero = false ∧ ph = N.atan2 p.im p.re)) →
    (discriminate N d x q).1 =
      N.add numHalf (N.div (N.div (N.mul ph d.fsN) (N.mul (numLit 2) N.pi)) (N.sub d.fmN d.fspN))

/-- R200, R204, R190: hysteresis.  A value from `lo` to `hi`, and a NaN, flips nothing; a 1 falls only
below `lo`, and a 0 rises only above `hi`. -/
def Obligations.SlicerHasHysteresis : Prop :=
  ∀ (lo hi v : NumVal) (b : Bool),
    (numLe lo v = true → numLe v hi = true → slice lo hi b v = b) ∧
    slice lo hi b .nan = b ∧
    (slice lo hi true v = false ↔ numLt v lo = true) ∧ (slice lo hi false v = true ↔ numLt hi v = true)

/-- R212, R222: on every DEMOD both age counters grow by one and saturate; a transition zeroes `EAGE`,
and the end of a frame zeroes `BAGE`. -/
def Obligations.AgeCountersCountSamples : Prop :=
  ∀ (s : State) (x : Sample), s.mode = .run → ∃ (t : State) (ws : List Word),
    exec (.demod x) s = .next t ∧ t.out = s.out ++ ws ∧
    t.demod.eage = (if t.demod.sym ≠ t.demod.psym then 0 else min (s.demod.eage + 1) (2 ^ 24 - 1)) ∧
    t.demod.bage = (if ws = [] then min (s.demod.bage + 1) (2 ^ 24 - 1) else 0)

/-- R213 to R216: IDLE.  A falling edge that passes the window, and in CB the byte guard, is accepted;
otherwise only the age counters move.  Nothing is emitted. -/
def Obligations.IdleAcceptsAStartEdge : Prop :=
  ∀ (N : Numerics) (d : Derived) (q : Demod) (age bage : Nat) (accepted : Prop), q.idx = 9 →
    age = min (q.eage + 1) (2 ^ 24 - 1) → bage = min (q.bage + 1) (2 ^ 24 - 1) →
    (accepted ↔ (q.psym = true ∧ q.sym = false ∧
      ((d.wcmpL = false ∧ age ≥ d.gEdge) ∨ (d.wcmpL = true ∧ age = d.gEdge)) ∧
      (d.syncL = false ∨ bage ≥ d.gByte))) →
    (accepted → d.syncL = false → framerStep N d q =
      ({ q with idx := 0, eage := 0, bage := bage, cd := N.mul (.fin false 3 (-1)) d.spb }, [])) ∧
    (accepted → d.syncL = true → framerStep N d q =
      ({ q with idx := 0, eage := 0, bage := bage, bitage := -(d.halfI : Int) }, [])) ∧
    (¬ accepted → framerStep N d q =
      ({ q with eage := if q.sym ≠ q.psym then 0 else age, bage := bage }, []))

/-- R217, R218: FRAMING in the fractional-countdown policy. -/
def Obligations.CountdownTimesTheTicks : Prop :=
  ∀ (N : Numerics) (d : Derived) (q a : Demod) (cd : NumVal), q.idx ≠ 9 → d.syncL = false →
    a = { q with eage := if q.sym ≠ q.psym then 0 else min (q.eage + 1) (2 ^ 24 - 1)
                 bage := min (q.bage + 1) (2 ^ 24 - 1) } →
    cd = (if q.sym ≠ q.psym then N.mul (.fin false 1 (-1)) d.spb else N.sub q.cd numOne) →
    framerStep N d q =
      (if numLe cd (.fin false 1 (-1)) = true then tick { a with cd := N.add cd d.spb }
       else ({ a with cd := cd }, []))

/-- R219, R220: FRAMING in the counter-based policy. -/
def Obligations.CounterTimesTheTicks : Prop :=
  ∀ (N : Numerics) (d : Derived) (q a : Demod) (age : Int), q.idx ≠ 9 → d.syncL = true →
    a = { q with eage := if q.sym ≠ q.psym then 0 else min (q.eage + 1) (2 ^ 24 - 1)
                 bage := min (q.bage + 1) (2 ^ 24 - 1) } →
    age = (if q.sym ≠ q.psym then (d.spbI : Int) - d.halfI else q.bitage + 1) →
    framerStep N d q =
      (if age = d.spbI then tick { a with bitage := 0 } else ({ a with bitage := age }, []))

/-- R221: a data tick stores `SYM` in bit `IDX` of `ACC` and nothing else of the byte. -/
def Obligations.DataTickStoresOneBit : Prop :=
  ∀ q : Demod, q.idx.val ≤ 7 → ∃ (acc : Byte) (i : Fin 10),
    tick q = ({ q with acc := acc, idx := i }, []) ∧ i.val = q.idx.val + 1 ∧
    ∀ j : Nat, j < 8 → acc.getLsbD j = (if j = q.idx.val then q.acc.getLsbD j || q.sym else q.acc.getLsbD j)

/-- R222, R265: the stop tick emits BYTE or DISCARD with `ACC`, and the framer returns to IDLE. -/
def Obligations.StopTickEndsTheFrame : Prop :=
  ∀ q : Demod, q.idx = 8 →
    ∃ es : List Event, tick q = ({ q with acc := 0#8, idx := 9, bage := 0 }, es) ∧
      es = (if q.sym = true then [.byte q.acc] else [.discard q.acc]) ∧
      es.map eventWord = [(if q.sym = true then 0x2#4 else 0x3#4) ++ (0#20 ++ q.acc)]

/-- R223, R93, R221, R222: the nine ticks of a frame recover the byte the modulator's frame carries.
With the stop symbol 0 the byte is discarded; before the ninth tick nothing is emitted. -/
def Obligations.NineTicksRecoverTheByte : Prop :=
  ∀ (b : Byte) (q : Demod) (stop : Bool) (n : Nat), q.idx = 0 → q.acc = 0#8 → n ≤ 8 →
    (∃ u : Demod, tickAll (((frameSymbols b).drop 1).take 8 ++ [stop]) q =
        (u, if stop = true then [.byte b] else [.discard b]) ∧ u.idx = 9 ∧ u.acc = 0#8 ∧ u.bage = 0) ∧
    (tickAll (((frameSymbols b).drop 1).take n) q).2 = [] ∧
    ((tickAll (((frameSymbols b).drop 1).take n) q).1.idx.val = n)

/-! ## The encode path -/

/-- R240 to R242, R93: in RUN, MODBYTE sends the preamble if this is a burst's first byte, then start 0,
the data bits LSB first and stop 1, as SAMPLE events, and sets `BURST`; nothing else changes. -/
def Obligations.ModbyteSendsAFrame : Prop :=
  ∀ (s : State) (b : Byte) (symbols : List Bool), s.mode = .run →
    symbols = (if s.modulator.burst then [] else List.replicate s.derived.preN true) ++
      (false :: (List.range 8).map (fun i => b.getLsbD i)) ++ [true] →
    ∃ (m : Modulator) (es : List Event),
      exec (.modbyte b) s = .next { s with modulator := m, out := s.out ++ es.map eventWord } ∧
      m.burst = true ∧ (m.car, m.mt) = ((sendSymbols s.numerics s.derived symbols s.modulator).1.car,
        (sendSymbols s.numerics s.derived symbols s.modulator).1.mt) ∧
      es = (sendSymbols s.numerics s.derived symbols s.modulator).2 ∧ ∀ e ∈ es, ∃ x, e = .sample x

/-- R249: in RUN, MODPOST sends `POST_N` marks as SAMPLE events and clears `BURST`; nothing else changes. -/
def Obligations.ModpostSendsThePostamble : Prop :=
  ∀ s : State, s.mode = .run →
    ∃ (m : Modulator) (es : List Event),
      exec .modpost s = .next { s with modulator := m, out := s.out ++ es.map eventWord } ∧
      m.burst = false ∧
      (m.car, m.mt) = ((sendSymbols s.numerics s.derived (List.replicate s.derived.postN true) s.modulator).1.car,
        (sendSymbols s.numerics s.derived (List.replicate s.derived.postN true) s.modulator).1.mt) ∧
      es = (sendSymbols s.numerics s.derived (List.replicate s.derived.postN true) s.modulator).2 ∧
      ∀ e ∈ es, ∃ x, e = .sample x

/-- R243 to R248: one symbol.  `FLOOR(MT + spb)` samples; sample `k` is taken from the carrier rotated
`k` times by the symbol's rotor, each rotation renormalised; the fraction stays in `MT`. -/
def Obligations.SymbolIsARunOfRotations : Prop :=
  ∀ (N : Numerics) (d : Derived) (b : Bool) (m : Modulator) (t : NumVal) (n : Nat) (next : Cplx → Cplx),
    t = N.add m.mt d.spb → n = (numFloor t).toNat →
    (∀ c c' : Cplx, c' = cmul N c (if b = true then d.rotM else d.rotS) →
      next c = cscale N (N.mul (N.sub (numLit 3) (abs2 N c')) numHalf) c') →
    sendSymbol N d b m =
      ({ car := next^[n] m.car, mt := N.sub t (N.ofInt (numFloor t)), burst := m.burst },
        (List.range n).map (fun k => Event.sample (BitVec.ofInt 16
          (max (-32768) (min 32767 (numNearest (N.mul (numLit 32767) (next^[k] m.car).im)))))))

/-- R301, R55: a DEMOD and a MODBYTE, or a DEMOD and a MODPOST, in either order leave the same state but
for the order of their events in `OUT`, and each emits the same events either way. -/
def Obligations.DemodAndModulatorCommute : Prop :=
  ∀ (s : State) (x : Sample) (i : Instr), s.mode = .run → (i = .modpost ∨ ∃ b, i = .modbyte b) →
    ∃ (t a c : State) (ds es : List Word),
      exec (.demod x) s = .next a ∧ exec i a = .next { t with out := s.out ++ ds ++ es } ∧
      exec i s = .next c ∧ exec (.demod x) c = .next { t with out := s.out ++ es ++ ds } ∧
      a.out = s.out ++ ds ∧ c.out = s.out ++ es

/-! ## Invariants -/

/-- R54, R291: the state after reset is legal. -/
def Obligations.ResetIsLegal : Prop := Inv State.reset

/-- R29, R38, R44 to R48, R41, R42, R66, R92, R124: every step keeps a legal state legal, whatever
the host does. -/
def Obligations.StepKeepsLegalStates : Prop :=
  ∀ s t : State, Inv s → step s = .next t → Inv t

/-! ## Numbers, host adapter, assembler -/

/-- R127: in binary64 the conversion of a register's value is exact. -/
def Obligations.RegisterValuesAreExactInBinary64 : Prop :=
  ∀ v : RegVal, referenceNumerics.ofInt v.toNat = numLit v.toNat

/-- R64: the samples the host reads from a byte stream; an odd byte at the end is dropped. -/
def Obligations.PcmBytesReadBack : Prop :=
  ∀ (xs : List Sample) (odd : List Byte), odd.length ≤ 1 →
    samplesOfBytes (xs.flatMap (fun x => [x.extractLsb' 0 8, x.extractLsb' 8 8]) ++ odd) = xs

/-- R96: an operand outside its range is refused, never truncated, and what is assembled is the
command as written. -/
def Obligations.AssemblerRefusesOutOfRangeOperands : Prop :=
  (∀ i : Instr, assemble i.toAsm = some i) ∧
  (∀ a : AsmCommand, a.wellFormed = false → assemble a = none) ∧
  (∀ (a : AsmCommand) (i : Instr), assemble a = some i → i.toAsm = a)

/-- R268, R64: a DISCARD event, and no other, gives one diagnostic line, which ends in the byte as two
lower-case hexadecimal digits and a line feed; a BYTE event, and no other, gives one byte of the decode
sink; a SAMPLE event, and no other, gives two bytes of the encode output, the low one first. -/
def Obligations.HostReportsEachEventOnce : Prop :=
  ∀ (name : List Char) (e : Event),
    (∀ b, e = .discard b → ∃ hi lo : Fin 16, b.toNat = 16 * hi.val + lo.val ∧
      diagnosticLine name e = some ("warning: ".toList ++ name ++ ": discarding possible 0x".toList ++
        ["0123456789abcdef".toList.getD hi.val ' ', "0123456789abcdef".toList.getD lo.val ' ', '\n'])) ∧
    (∀ b, e = .byte b → sinkBytes e = [b]) ∧
    (∀ x, e = .sample x → encodeBytes e = [x.extractLsb' 0 8, x.extractLsb' 8 8]) ∧
    ((∀ b, e ≠ .discard b) → diagnosticLine name e = none) ∧
    ((∀ b, e ≠ .byte b) → sinkBytes e = []) ∧
    ((∀ x, e ≠ .sample x) → encodeBytes e = [])
end

