-- ==== Sys2Proof/Laws/Numbers.lean ====
section
/-!
SUPPORT. The comparisons of numbers, and how the bits of a word lie in its fields.
-/
namespace Sys2Proof.Machine

/-- `a == 0` is the test for either zero. -/
theorem numEq_numZero (a : NumVal) : numEq a numZero = numIsZero a := by
  cases a with
  | nan => rfl
  | inf s => cases s <;> rfl
  | fin s m e =>
    simp only [numEq, numLe, numZero, numIsZero, scaledInt]
    have h : (0 : Int) < 2 ^ (e - min e 0).toNat := by positivity
    by_cases hm : m = 0
    · cases s <;> simp [hm]
    · have hp : 0 < m * 2 ^ (e - min e 0).toNat := by positivity
      cases s <;> simp [hm] <;> omega

/-- `≤` one way excludes `<` the other way. -/
theorem numLt_of_numLe {a b : NumVal} (h : numLe a b = true) : numLt b a = false := by
  cases a with
  | nan => cases b <;> simp_all [numLe]
  | inf s => cases b with
    | nan => rfl
    | inf t => cases s <;> cases t <;> simp_all [numLe, numLt]
    | fin t n f => simp_all [numLe, numLt]
  | fin s m e => cases b with
    | nan => rfl
    | inf t => simp_all [numLe, numLt]
    | fin t n f =>
      simp only [numLe, numLt, decide_eq_true_eq, decide_eq_false_iff_not] at *
      rw [min_comm]
      omega

@[simp] theorem numLt_nan_left (a : NumVal) : numLt .nan a = false := by cases a <;> rfl

@[simp] theorem numLt_nan_right (a : NumVal) : numLt a .nan = false := by cases a <;> rfl

end Sys2Proof.Machine

namespace Sys2Proof

/-- A word is its opcode field in front of its other 28 bits. -/
theorem word_eq_fields {w : Word} {a : BitVec 4} {b : BitVec 28} (ha : w.extractLsb' 28 4 = a)
    (hb : w.extractLsb' 0 28 = b) : w = a ++ b := by
  subst ha hb
  apply BitVec.eq_of_getLsbD_eq
  intro i hi
  simp only [BitVec.getLsbD_append, BitVec.getLsbD_extractLsb']
  by_cases h : i < 28
  · simp [h]
  · have e : 28 + (i - 28) = i := by omega
    have h4 : i - 28 < 4 := by omega
    simp only [h, e, h4]
    simp

/-- A masked word, bit by bit. -/
theorem and_mask_iff (w m p : Word) :
    w &&& m = p ↔ ∀ i, i < 32 → (w.getLsbD i && m.getLsbD i) = p.getLsbD i := by
  constructor
  · intro h i hi
    rw [← h, BitVec.getLsbD_and]
  · intro h
    apply BitVec.eq_of_getLsbD_eq
    intro i hi
    rw [BitVec.getLsbD_and]
    exact h i hi

end Sys2Proof
end

