-- ==== Sys2Proof/Laws/State.lean ====
section
/-!
SUPPORT. One lemma per field for each operation that updates the state: what the field is afterwards.
-/
namespace Sys2Proof.Machine

@[simp] theorem emitAll_cfg (es : List Event) (s : State) : (emitAll es s).cfg = s.cfg := rfl
@[simp] theorem emitAll_mode (es : List Event) (s : State) : (emitAll es s).mode = s.mode := rfl
@[simp] theorem emitAll_err (es : List Event) (s : State) : (emitAll es s).err = s.err := rfl
@[simp] theorem emitAll_cause (es : List Event) (s : State) : (emitAll es s).cause = s.cause := rfl
@[simp] theorem emitAll_derived (es : List Event) (s : State) : (emitAll es s).derived = s.derived := rfl
@[simp] theorem emitAll_demod (es : List Event) (s : State) : (emitAll es s).demod = s.demod := rfl
@[simp] theorem emitAll_modulator (es : List Event) (s : State) : (emitAll es s).modulator = s.modulator := rfl
@[simp] theorem emitAll_out (es : List Event) (s : State) : (emitAll es s).out = s.out ++ es.map eventWord := rfl
@[simp] theorem emitAll_input (es : List Event) (s : State) : (emitAll es s).input = s.input := rfl
@[simp] theorem emitAll_impl (es : List Event) (s : State) : (emitAll es s).impl = s.impl := rfl
@[simp] theorem emitAll_freeCount (es : List Event) (s : State) : (emitAll es s).freeCount = s.freeCount := rfl
@[simp] theorem emitAll_numerics (es : List Event) (s : State) : (emitAll es s).numerics = s.numerics := rfl

@[simp] theorem emit_cfg (e : Event) (s : State) : (emit e s).cfg = s.cfg := rfl
@[simp] theorem emit_mode (e : Event) (s : State) : (emit e s).mode = s.mode := rfl
@[simp] theorem emit_err (e : Event) (s : State) : (emit e s).err = s.err := rfl
@[simp] theorem emit_cause (e : Event) (s : State) : (emit e s).cause = s.cause := rfl
@[simp] theorem emit_derived (e : Event) (s : State) : (emit e s).derived = s.derived := rfl
@[simp] theorem emit_demod (e : Event) (s : State) : (emit e s).demod = s.demod := rfl
@[simp] theorem emit_modulator (e : Event) (s : State) : (emit e s).modulator = s.modulator := rfl
@[simp] theorem emit_out (e : Event) (s : State) : (emit e s).out = s.out ++ [eventWord e] := rfl
@[simp] theorem emit_input (e : Event) (s : State) : (emit e s).input = s.input := rfl
@[simp] theorem emit_impl (e : Event) (s : State) : (emit e s).impl = s.impl := rfl
@[simp] theorem emit_freeCount (e : Event) (s : State) : (emit e s).freeCount = s.freeCount := rfl
@[simp] theorem emit_numerics (e : Event) (s : State) : (emit e s).numerics = s.numerics := rfl

@[simp] theorem raiseError_cfg (c : Cause) (w : Word) (s : State) : (raiseError c w s).cfg = s.cfg := rfl
@[simp] theorem raiseError_mode (c : Cause) (w : Word) (s : State) : (raiseError c w s).mode = s.mode := rfl
@[simp] theorem raiseError_err (c : Cause) (w : Word) (s : State) : (raiseError c w s).err = true := rfl
@[simp] theorem raiseError_cause (c : Cause) (w : Word) (s : State) : (raiseError c w s).cause = causeCode c := rfl
@[simp] theorem raiseError_derived (c : Cause) (w : Word) (s : State) : (raiseError c w s).derived = s.derived := rfl
@[simp] theorem raiseError_demod (c : Cause) (w : Word) (s : State) : (raiseError c w s).demod = s.demod := rfl
@[simp] theorem raiseError_modulator (c : Cause) (w : Word) (s : State) : (raiseError c w s).modulator = s.modulator := rfl
@[simp] theorem raiseError_out (c : Cause) (w : Word) (s : State) : (raiseError c w s).out = s.out ++ [eventWord (.error (causeCode c) (topByte w))] := rfl
@[simp] theorem raiseError_input (c : Cause) (w : Word) (s : State) : (raiseError c w s).input = s.input := rfl
@[simp] theorem raiseError_impl (c : Cause) (w : Word) (s : State) : (raiseError c w s).impl = s.impl := rfl
@[simp] theorem raiseError_freeCount (c : Cause) (w : Word) (s : State) : (raiseError c w s).freeCount = s.freeCount := rfl
@[simp] theorem raiseError_numerics (c : Cause) (w : Word) (s : State) : (raiseError c w s).numerics = s.numerics := rfl

@[simp] theorem setCfg_cfg (c : ConfigRegs) (s : State) : (setCfg c s).cfg = c := rfl
@[simp] theorem setCfg_mode (c : ConfigRegs) (s : State) : (setCfg c s).mode = s.mode := rfl
@[simp] theorem setCfg_err (c : ConfigRegs) (s : State) : (setCfg c s).err = s.err := rfl
@[simp] theorem setCfg_cause (c : ConfigRegs) (s : State) : (setCfg c s).cause = s.cause := rfl
@[simp] theorem setCfg_derived (c : ConfigRegs) (s : State) : (setCfg c s).derived = s.derived := rfl
@[simp] theorem setCfg_demod (c : ConfigRegs) (s : State) : (setCfg c s).demod = s.demod := rfl
@[simp] theorem setCfg_modulator (c : ConfigRegs) (s : State) : (setCfg c s).modulator = s.modulator := rfl
@[simp] theorem setCfg_out (c : ConfigRegs) (s : State) : (setCfg c s).out = s.out := rfl
@[simp] theorem setCfg_input (c : ConfigRegs) (s : State) : (setCfg c s).input = s.input := rfl
@[simp] theorem setCfg_impl (c : ConfigRegs) (s : State) : (setCfg c s).impl = s.impl := rfl
@[simp] theorem setCfg_freeCount (c : ConfigRegs) (s : State) : (setCfg c s).freeCount = s.freeCount := rfl
@[simp] theorem setCfg_numerics (c : ConfigRegs) (s : State) : (setCfg c s).numerics = s.numerics := rfl

@[simp] theorem setMode_cfg (m : Mode) (s : State) : (setMode m s).cfg = s.cfg := rfl
@[simp] theorem setMode_mode (m : Mode) (s : State) : (setMode m s).mode = m := rfl
@[simp] theorem setMode_err (m : Mode) (s : State) : (setMode m s).err = s.err := rfl
@[simp] theorem setMode_cause (m : Mode) (s : State) : (setMode m s).cause = s.cause := rfl
@[simp] theorem setMode_derived (m : Mode) (s : State) : (setMode m s).derived = s.derived := rfl
@[simp] theorem setMode_demod (m : Mode) (s : State) : (setMode m s).demod = s.demod := rfl
@[simp] theorem setMode_modulator (m : Mode) (s : State) : (setMode m s).modulator = s.modulator := rfl
@[simp] theorem setMode_out (m : Mode) (s : State) : (setMode m s).out = s.out := rfl
@[simp] theorem setMode_input (m : Mode) (s : State) : (setMode m s).input = s.input := rfl
@[simp] theorem setMode_impl (m : Mode) (s : State) : (setMode m s).impl = s.impl := rfl
@[simp] theorem setMode_freeCount (m : Mode) (s : State) : (setMode m s).freeCount = s.freeCount := rfl
@[simp] theorem setMode_numerics (m : Mode) (s : State) : (setMode m s).numerics = s.numerics := rfl

@[simp] theorem setDemod_cfg (q : Demod) (s : State) : (setDemod q s).cfg = s.cfg := rfl
@[simp] theorem setDemod_mode (q : Demod) (s : State) : (setDemod q s).mode = s.mode := rfl
@[simp] theorem setDemod_err (q : Demod) (s : State) : (setDemod q s).err = s.err := rfl
@[simp] theorem setDemod_cause (q : Demod) (s : State) : (setDemod q s).cause = s.cause := rfl
@[simp] theorem setDemod_derived (q : Demod) (s : State) : (setDemod q s).derived = s.derived := rfl
@[simp] theorem setDemod_demod (q : Demod) (s : State) : (setDemod q s).demod = q := rfl
@[simp] theorem setDemod_modulator (q : Demod) (s : State) : (setDemod q s).modulator = s.modulator := rfl
@[simp] theorem setDemod_out (q : Demod) (s : State) : (setDemod q s).out = s.out := rfl
@[simp] theorem setDemod_input (q : Demod) (s : State) : (setDemod q s).input = s.input := rfl
@[simp] theorem setDemod_impl (q : Demod) (s : State) : (setDemod q s).impl = s.impl := rfl
@[simp] theorem setDemod_freeCount (q : Demod) (s : State) : (setDemod q s).freeCount = s.freeCount := rfl
@[simp] theorem setDemod_numerics (q : Demod) (s : State) : (setDemod q s).numerics = s.numerics := rfl

@[simp] theorem setModulator_cfg (m : Modulator) (s : State) : (setModulator m s).cfg = s.cfg := rfl
@[simp] theorem setModulator_mode (m : Modulator) (s : State) : (setModulator m s).mode = s.mode := rfl
@[simp] theorem setModulator_err (m : Modulator) (s : State) : (setModulator m s).err = s.err := rfl
@[simp] theorem setModulator_cause (m : Modulator) (s : State) : (setModulator m s).cause = s.cause := rfl
@[simp] theorem setModulator_derived (m : Modulator) (s : State) : (setModulator m s).derived = s.derived := rfl
@[simp] theorem setModulator_demod (m : Modulator) (s : State) : (setModulator m s).demod = s.demod := rfl
@[simp] theorem setModulator_modulator (m : Modulator) (s : State) : (setModulator m s).modulator = m := rfl
@[simp] theorem setModulator_out (m : Modulator) (s : State) : (setModulator m s).out = s.out := rfl
@[simp] theorem setModulator_input (m : Modulator) (s : State) : (setModulator m s).input = s.input := rfl
@[simp] theorem setModulator_impl (m : Modulator) (s : State) : (setModulator m s).impl = s.impl := rfl
@[simp] theorem setModulator_freeCount (m : Modulator) (s : State) : (setModulator m s).freeCount = s.freeCount := rfl
@[simp] theorem setModulator_numerics (m : Modulator) (s : State) : (setModulator m s).numerics = s.numerics := rfl

@[simp] theorem resetBlock_cfg (s : State) : (resetBlock s).cfg = ConfigRegs.reset := rfl
@[simp] theorem resetBlock_mode (s : State) : (resetBlock s).mode = .config := rfl
@[simp] theorem resetBlock_err (s : State) : (resetBlock s).err = false := rfl
@[simp] theorem resetBlock_cause (s : State) : (resetBlock s).cause = 0#4 := rfl
@[simp] theorem resetBlock_derived (s : State) : (resetBlock s).derived = unspecifiedDerived s.freeCount := rfl
@[simp] theorem resetBlock_demod (s : State) : (resetBlock s).demod = Demod.initial := rfl
@[simp] theorem resetBlock_modulator (s : State) : (resetBlock s).modulator = Modulator.initial := rfl
@[simp] theorem resetBlock_out (s : State) : (resetBlock s).out = s.out := rfl
@[simp] theorem resetBlock_input (s : State) : (resetBlock s).input = s.input := rfl
@[simp] theorem resetBlock_impl (s : State) : (resetBlock s).impl = s.impl := rfl
@[simp] theorem resetBlock_freeCount (s : State) : (resetBlock s).freeCount = s.freeCount + 1 := rfl
@[simp] theorem resetBlock_numerics (s : State) : (resetBlock s).numerics = s.numerics := rfl

@[simp] theorem startSession_cfg (d : Derived) (s : State) : (startSession d s).cfg = s.cfg := rfl
@[simp] theorem startSession_mode (d : Derived) (s : State) : (startSession d s).mode = .run := rfl
@[simp] theorem startSession_err (d : Derived) (s : State) : (startSession d s).err = s.err := rfl
@[simp] theorem startSession_cause (d : Derived) (s : State) : (startSession d s).cause = s.cause := rfl
@[simp] theorem startSession_derived (d : Derived) (s : State) : (startSession d s).derived = d := rfl
@[simp] theorem startSession_demod (d : Derived) (s : State) : (startSession d s).demod = Demod.initial := rfl
@[simp] theorem startSession_modulator (d : Derived) (s : State) : (startSession d s).modulator = Modulator.initial := rfl
@[simp] theorem startSession_out (d : Derived) (s : State) : (startSession d s).out = s.out := rfl
@[simp] theorem startSession_input (d : Derived) (s : State) : (startSession d s).input = s.input := rfl
@[simp] theorem startSession_impl (d : Derived) (s : State) : (startSession d s).impl = s.impl := rfl
@[simp] theorem startSession_freeCount (d : Derived) (s : State) : (startSession d s).freeCount = s.freeCount + 1 := rfl
@[simp] theorem startSession_numerics (d : Derived) (s : State) : (startSession d s).numerics = s.numerics := rfl

@[simp] theorem hostTake_cfg (s : State) : (hostTake s).cfg = s.cfg := rfl
@[simp] theorem hostTake_mode (s : State) : (hostTake s).mode = s.mode := rfl
@[simp] theorem hostTake_err (s : State) : (hostTake s).err = s.err := rfl
@[simp] theorem hostTake_cause (s : State) : (hostTake s).cause = s.cause := rfl
@[simp] theorem hostTake_derived (s : State) : (hostTake s).derived = s.derived := rfl
@[simp] theorem hostTake_demod (s : State) : (hostTake s).demod = s.demod := rfl
@[simp] theorem hostTake_modulator (s : State) : (hostTake s).modulator = s.modulator := rfl
@[simp] theorem hostTake_out (s : State) : (hostTake s).out = s.out.tail := rfl
@[simp] theorem hostTake_input (s : State) : (hostTake s).input = s.input := rfl
@[simp] theorem hostTake_impl (s : State) : (hostTake s).impl = s.impl := rfl
@[simp] theorem hostTake_freeCount (s : State) : (hostTake s).freeCount = s.freeCount := rfl
@[simp] theorem hostTake_numerics (s : State) : (hostTake s).numerics = s.numerics := rfl

@[simp] theorem powerOnReset_cfg (s : State) : (powerOnReset s).cfg = ConfigRegs.reset := rfl
@[simp] theorem powerOnReset_mode (s : State) : (powerOnReset s).mode = .config := rfl
@[simp] theorem powerOnReset_err (s : State) : (powerOnReset s).err = false := rfl
@[simp] theorem powerOnReset_cause (s : State) : (powerOnReset s).cause = 0#4 := rfl
@[simp] theorem powerOnReset_derived (s : State) : (powerOnReset s).derived = unspecifiedDerived s.freeCount := rfl
@[simp] theorem powerOnReset_demod (s : State) : (powerOnReset s).demod = Demod.initial := rfl
@[simp] theorem powerOnReset_modulator (s : State) : (powerOnReset s).modulator = Modulator.initial := rfl
@[simp] theorem powerOnReset_out (s : State) : (powerOnReset s).out = [] := rfl
@[simp] theorem powerOnReset_input (s : State) : (powerOnReset s).input = s.input := rfl
@[simp] theorem powerOnReset_impl (s : State) : (powerOnReset s).impl = s.impl := rfl
@[simp] theorem powerOnReset_freeCount (s : State) : (powerOnReset s).freeCount = s.freeCount + 1 := rfl
@[simp] theorem powerOnReset_numerics (s : State) : (powerOnReset s).numerics = s.numerics := rfl

@[simp] theorem setInput_cfg (ms : List HostMove) (s : State) : (setInput ms s).cfg = s.cfg := rfl
@[simp] theorem setInput_mode (ms : List HostMove) (s : State) : (setInput ms s).mode = s.mode := rfl
@[simp] theorem setInput_err (ms : List HostMove) (s : State) : (setInput ms s).err = s.err := rfl
@[simp] theorem setInput_cause (ms : List HostMove) (s : State) : (setInput ms s).cause = s.cause := rfl
@[simp] theorem setInput_derived (ms : List HostMove) (s : State) : (setInput ms s).derived = s.derived := rfl
@[simp] theorem setInput_demod (ms : List HostMove) (s : State) : (setInput ms s).demod = s.demod := rfl
@[simp] theorem setInput_modulator (ms : List HostMove) (s : State) : (setInput ms s).modulator = s.modulator := rfl
@[simp] theorem setInput_out (ms : List HostMove) (s : State) : (setInput ms s).out = s.out := rfl
@[simp] theorem setInput_input (ms : List HostMove) (s : State) : (setInput ms s).input = ms := rfl
@[simp] theorem setInput_impl (ms : List HostMove) (s : State) : (setInput ms s).impl = s.impl := rfl
@[simp] theorem setInput_freeCount (ms : List HostMove) (s : State) : (setInput ms s).freeCount = s.freeCount := rfl
@[simp] theorem setInput_numerics (ms : List HostMove) (s : State) : (setInput ms s).numerics = s.numerics := rfl

@[simp] theorem pushCommand_cfg (w : Word) (s : State) : (pushCommand w s).cfg = s.cfg := rfl
@[simp] theorem pushCommand_mode (w : Word) (s : State) : (pushCommand w s).mode = s.mode := rfl
@[simp] theorem pushCommand_err (w : Word) (s : State) : (pushCommand w s).err = s.err := rfl
@[simp] theorem pushCommand_cause (w : Word) (s : State) : (pushCommand w s).cause = s.cause := rfl
@[simp] theorem pushCommand_derived (w : Word) (s : State) : (pushCommand w s).derived = s.derived := rfl
@[simp] theorem pushCommand_demod (w : Word) (s : State) : (pushCommand w s).demod = s.demod := rfl
@[simp] theorem pushCommand_modulator (w : Word) (s : State) : (pushCommand w s).modulator = s.modulator := rfl
@[simp] theorem pushCommand_out (w : Word) (s : State) : (pushCommand w s).out = s.out := rfl
@[simp] theorem pushCommand_input (w : Word) (s : State) : (pushCommand w s).input = .command w :: s.input := rfl
@[simp] theorem pushCommand_impl (w : Word) (s : State) : (pushCommand w s).impl = s.impl := rfl
@[simp] theorem pushCommand_freeCount (w : Word) (s : State) : (pushCommand w s).freeCount = s.freeCount := rfl
@[simp] theorem pushCommand_numerics (w : Word) (s : State) : (pushCommand w s).numerics = s.numerics := rfl

end Sys2Proof.Machine
end

