-- ==== Sys2Proof/Laws/Ops.lean ====
section
/-!
SUPPORT. What each shared operation can do, said once: the mode gate, the delivery of a command's
outcome, the stall, and one inversion lemma per meaning.
-/
namespace Sys2Proof.Machine

theorem requireMode_same {m : Mode} {i : Instr} {s : State} {e : Result} (h : s.mode = m) :
    requireMode m i s e = e := if_pos h

theorem requireMode_other {m : Mode} {i : Instr} {s : State} {e : Result} (h : s.mode ≠ m) :
    requireMode m i s e = .next (raiseError .badMode (encode i) s) := if_neg h

/-- The mode gate either lets the effect through or raises BAD_MODE. -/
theorem requireMode_cases {m : Mode} {i : Instr} {s : State} {e r : Result} (h : requireMode m i s e = r) :
    (s.mode = m ∧ r = e) ∨ (s.mode ≠ m ∧ r = .next (raiseError .badMode (encode i) s)) := by
  by_cases hm : s.mode = m
  · exact .inl ⟨hm, (h.symm.trans (requireMode_same hm))⟩
  · exact .inr ⟨hm, (h.symm.trans (requireMode_other hm))⟩

theorem nop_cases {s t : State} (h : exec .nop s = .next t) : t = s := by
  cases h; rfl

theorem reset_cases {s t : State} (h : exec .reset s = .next t) : t = resetBlock s := by
  cases h; rfl

/-- WRCFG raises BAD_MODE, raises BAD_REG, or writes its register. -/
theorem wrcfg_cases {r : RegNo} {v : RegVal} {s t : State} (h : exec (.wrcfg r v) s = .next t) :
    (s.mode ≠ .config ∧ t = raiseError .badMode (encode (.wrcfg r v)) s) ∨
    (s.mode = .config ∧ firstReadOnly ≤ r.toNat ∧ t = raiseError .badReg (encode (.wrcfg r v)) s) ∨
    (s.mode = .config ∧ r.toNat < firstReadOnly ∧ t = setCfg (writeReg s.cfg r v) s) := by
  obtain ⟨hm, he⟩ | ⟨hm, he⟩ := requireMode_cases (h : requireMode _ _ _ _ = _)
  · by_cases hr : firstReadOnly ≤ r.toNat
    · rw [if_pos hr] at he; cases he; exact .inr (.inl ⟨hm, hr, rfl⟩)
    · rw [if_neg hr] at he; cases he; exact .inr (.inr ⟨hm, by omega, rfl⟩)
  · cases he; exact .inl ⟨hm, rfl⟩

theorem rdreg_cases {r : RegNo} {s t : State} (h : exec (.rdreg r) s = .next t) :
    t = emit (.regval r (readReg s r)) s := by
  cases h; rfl

/-- START raises BAD_MODE, raises CONFIG_INVALID, or begins a session. -/
theorem start_cases {s t : State} (h : exec .start s = .next t) :
    (s.mode ≠ .config ∧ t = raiseError .badMode (encode .start) s) ∨
    (s.mode = .config ∧ configAccepted s.numerics s.cfg s.freeCount = false ∧
      t = raiseError .configInvalid (encode .start) s) ∨
    (s.mode = .config ∧ configAccepted s.numerics s.cfg s.freeCount = true ∧
      t = startSession (deriveConstants s.numerics s.cfg s.freeCount) s) := by
  obtain ⟨hm, he⟩ | ⟨hm, he⟩ := requireMode_cases (h : requireMode _ _ _ _ = _)
  · by_cases hr : configAccepted s.numerics s.cfg s.freeCount = true
    · rw [if_pos hr] at he; cases he; exact .inr (.inr ⟨hm, hr, rfl⟩)
    · rw [if_neg hr] at he; cases he; exact .inr (.inl ⟨hm, by simpa using hr, rfl⟩)
  · cases he; exact .inl ⟨hm, rfl⟩

/-- STOP raises BAD_MODE or changes the mode. -/
theorem stop_cases {s t : State} (h : exec .stop s = .next t) :
    (s.mode ≠ .run ∧ t = raiseError .badMode (encode .stop) s) ∨
    (s.mode = .run ∧ t = setMode .config s) := by
  obtain ⟨hm, he⟩ | ⟨hm, he⟩ := requireMode_cases (h : requireMode _ _ _ _ = _)
  · cases he; exact .inr ⟨hm, rfl⟩
  · cases he; exact .inl ⟨hm, rfl⟩

/-- DEMOD raises BAD_MODE or runs one sample through the decode path. -/
theorem demod_cases {x : Sample} {s t : State} (h : exec (.demod x) s = .next t) :
    (s.mode ≠ .run ∧ t = raiseError .badMode (encode (.demod x)) s) ∨
    (s.mode = .run ∧ t = emitAll (demodStep s.numerics s.derived x s.demod).2
      (setDemod (demodStep s.numerics s.derived x s.demod).1 s)) := by
  obtain ⟨hm, he⟩ | ⟨hm, he⟩ := requireMode_cases (h : requireMode _ _ _ _ = _)
  · cases he; exact .inr ⟨hm, rfl⟩
  · cases he; exact .inl ⟨hm, rfl⟩

/-- MODBYTE raises BAD_MODE or sends its byte. -/
theorem modbyte_cases {b : Byte} {s t : State} (h : exec (.modbyte b) s = .next t) :
    (s.mode ≠ .run ∧ t = raiseError .badMode (encode (.modbyte b)) s) ∨
    (s.mode = .run ∧ t = emitAll (modbyteStep s.numerics s.derived b s.modulator).2
      (setModulator (modbyteStep s.numerics s.derived b s.modulator).1 s)) := by
  obtain ⟨hm, he⟩ | ⟨hm, he⟩ := requireMode_cases (h : requireMode _ _ _ _ = _)
  · cases he; exact .inr ⟨hm, rfl⟩
  · cases he; exact .inl ⟨hm, rfl⟩

/-- MODPOST raises BAD_MODE or sends the postamble. -/
theorem modpost_cases {s t : State} (h : exec .modpost s = .next t) :
    (s.mode ≠ .run ∧ t = raiseError .badMode (encode .modpost) s) ∨
    (s.mode = .run ∧ t = emitAll (modpostStep s.numerics s.derived s.modulator).2
      (setModulator (modpostStep s.numerics s.derived s.modulator).1 s)) := by
  obtain ⟨hm, he⟩ | ⟨hm, he⟩ := requireMode_cases (h : requireMode _ _ _ _ = _)
  · cases he; exact .inr ⟨hm, rfl⟩
  · cases he; exact .inl ⟨hm, rfl⟩

/-- A word runs the command it decodes to, or raises ILLEGAL_OP. -/
theorem runWord_cases {w : Word} {s : State} {r : Result} (h : runWord w s = r) :
    (∃ i, decode w = .ok i ∧ r = exec i s) ∨
    (∃ e, decode w = .error e ∧ r = .next (raiseError .illegalOp w s)) := by
  unfold runWord at h
  split at h
  · exact .inl ⟨_, ‹_›, h.symm⟩
  · exact .inr ⟨_, ‹_›, h.symm⟩

/-- A delivered outcome that goes on is the command's own, or a stall. -/
theorem deliver_cases {w : Word} {ms : List HostMove} {s t : State} {r : Result} (h : deliver w ms s r = .next t) :
    (r = .next t ∧ outHasRoom s t = true) ∨
    (∃ u, r = .next u ∧ outHasRoom s u = false ∧ stall w ms s = .next t) := by
  unfold deliver at h
  split at h
  · rename_i u
    by_cases hr : outHasRoom s u = true
    · rw [if_pos hr] at h; cases h; exact .inl ⟨rfl, hr⟩
    · rw [if_neg hr] at h; exact .inr ⟨u, rfl, by simpa using hr, h⟩
  · cases h
  · cases h

/-- The first move after any number of commands ends the stall; commands alone do not. -/
theorem stallEnd_commands {pre : List HostMove} (post : List HostMove) (h : ∀ m ∈ pre, ∃ v, m = .command v) :
    stallEnd (pre ++ .take :: post) = some (.taken (pre ++ post)) ∧
    stallEnd (pre ++ .powerOn :: post) = some (.poweredOn post) ∧ stallEnd pre = none := by
  induction pre with
  | nil => simp [stallEnd]
  | cons m pre ih =>
    obtain ⟨v, rfl⟩ := h m (by simp)
    obtain ⟨h1, h2, h3⟩ := ih (fun m hm => h m (by simp [hm]))
    simp [stallEnd, h1, h2, h3]

/-- A stalled block goes on by a take or by a power-on reset. -/
theorem stall_cases {w : Word} {ms : List HostMove} {s t : State} (h : stall w ms s = .next t) :
    (∃ left, stallEnd ms = some (.taken left) ∧ t = setInput (.command w :: left) (hostTake s)) ∨
    (∃ left, stallEnd ms = some (.poweredOn left) ∧ t = setInput left (powerOnReset s)) := by
  unfold stall at h
  split at h
  · cases h; exact .inl ⟨_, ‹_›, rfl⟩
  · cases h; exact .inr ⟨_, ‹_›, rfl⟩
  · cases h

theorem step_idle {s : State} (h : s.input = []) : step s = .next s := by
  unfold step; rw [h]

theorem step_take {s : State} {ms : List HostMove} (h : s.input = .take :: ms) :
    step s = .next (setInput ms (hostTake s)) := by
  unfold step; rw [h]

theorem step_powerOn {s : State} {ms : List HostMove} (h : s.input = .powerOn :: ms) :
    step s = .next (setInput ms (powerOnReset s)) := by
  unfold step; rw [h]

theorem step_command {s : State} {w : Word} {ms : List HostMove} (h : s.input = .command w :: ms) :
    step s = deliver w ms s (runWord w (setInput ms s)) := by
  unfold step; rw [h]

/-- What one step can be: idle, a take, a power-on reset, a command consumed, or a stall. -/
theorem step_cases {s t : State} (h : step s = .next t) :
    (s.input = [] ∧ t = s) ∨
    (∃ ms, s.input = .take :: ms ∧ t = setInput ms (hostTake s)) ∨
    (∃ ms, s.input = .powerOn :: ms ∧ t = setInput ms (powerOnReset s)) ∨
    (∃ w ms, s.input = .command w :: ms ∧ runWord w (setInput ms s) = .next t ∧ outHasRoom s t = true) ∨
    (∃ w ms, s.input = .command w :: ms ∧ stall w ms s = .next t) := by
  match hi : s.input with
  | [] => rw [step_idle hi] at h; cases h; exact .inl ⟨rfl, rfl⟩
  | .take :: ms => rw [step_take hi] at h; cases h; exact .inr (.inl ⟨ms, rfl, rfl⟩)
  | .powerOn :: ms => rw [step_powerOn hi] at h; cases h; exact .inr (.inr (.inl ⟨ms, rfl, rfl⟩))
  | .command w :: ms =>
    rw [step_command hi] at h
    obtain ⟨h1, h2⟩ | ⟨u, -, -, h3⟩ := deliver_cases h
    · exact .inr (.inr (.inr (.inl ⟨w, ms, rfl, h1, h2⟩)))
    · exact .inr (.inr (.inr (.inr ⟨w, ms, rfl, h3⟩)))

end Sys2Proof.Machine
end

