-- ==== Sys2Proof/Laws/PerInstr.lean ====
section
/-!
SUPPORT. Per command: its word matches its own row of the table of spec/30_encoding.md R82, and its
operands are in the ranges of R96.
-/
namespace Sys2Proof

theorem word_ext {a b : Word} (h : ∀ i : Nat, i < 32 → a.getLsbD i = b.getLsbD i) : a = b :=
  BitVec.eq_of_getLsbD_eq (fun i hi => h i hi)

theorem toAsm_reg_inRange (r : RegNo) : AsmCommand.regInRange r.toNat = true := by
  have := r.isLt
  simp [AsmCommand.regInRange]; omega

theorem toAsm_value_inRange (v : RegVal) : AsmCommand.valueInRange v.toNat = true := by
  have := v.isLt
  simp [AsmCommand.valueInRange]; omega

theorem toAsm_byte_inRange (b : Byte) : AsmCommand.byteInRange b.toNat = true := by
  have := b.isLt
  simp [AsmCommand.byteInRange]; omega

theorem toAsm_sample_inRange (x : Sample) : AsmCommand.sampleInRange x.toInt = true := by
  have h1 := BitVec.le_toInt x
  have h2 := BitVec.toInt_lt (x := x)
  simp [AsmCommand.sampleInRange]; omega

namespace Laws.RowOfCommand

/-- The row of R82 with the command's mnemonic matches the command's word, and its operands are in
range. -/
abbrev Statement (i : Instr) : Prop :=
  (∃ r ∈ opcodeRows, r.mnemonic = i.mnemonic ∧ encode i &&& r.mask = r.pattern) ∧ i.wellFormed = true

theorem nop : Statement .nop := by decide

theorem reset : Statement .reset := by decide

theorem wrcfg (r : RegNo) (v : RegVal) : Statement (.wrcfg r v) := by
  refine ⟨⟨⟨"WRCFG", 0x20000000#32, 0xF0000000#32⟩, by decide, rfl, word_ext fun i hi => ?_⟩, ?_⟩
  · simp only [encode, BitVec.getLsbD_and, BitVec.getLsbD_append]
    interval_cases i <;> simp
  · simp [Instr.wellFormed, Instr.toAsm, AsmCommand.wellFormed, toAsm_reg_inRange, toAsm_value_inRange]

theorem rdreg (r : RegNo) : Statement (.rdreg r) := by
  refine ⟨⟨⟨"RDREG", 0x30000000#32, 0xF0FFFFFF#32⟩, by decide, rfl, word_ext fun i hi => ?_⟩, ?_⟩
  · simp only [encode, BitVec.getLsbD_and, BitVec.getLsbD_append]
    interval_cases i <;> simp
  · simp [Instr.wellFormed, Instr.toAsm, AsmCommand.wellFormed, toAsm_reg_inRange]

theorem start : Statement .start := by decide

theorem stop : Statement .stop := by decide

theorem demod (x : Sample) : Statement (.demod x) := by
  refine ⟨⟨⟨"DEMOD", 0x60000000#32, 0xFFFF0000#32⟩, by decide, rfl, word_ext fun i hi => ?_⟩, ?_⟩
  · simp only [encode, BitVec.getLsbD_and, BitVec.getLsbD_append]
    interval_cases i <;> simp
  · simp [Instr.wellFormed, Instr.toAsm, AsmCommand.wellFormed, toAsm_sample_inRange]

theorem modbyte (b : Byte) : Statement (.modbyte b) := by
  refine ⟨⟨⟨"MODBYTE", 0x70000000#32, 0xFFFFFF00#32⟩, by decide, rfl, word_ext fun i hi => ?_⟩, ?_⟩
  · simp only [encode, BitVec.getLsbD_and, BitVec.getLsbD_append]
    interval_cases i <;> simp
  · simp [Instr.wellFormed, Instr.toAsm, AsmCommand.wellFormed, toAsm_byte_inRange]

theorem modpost : Statement .modpost := by decide

end Laws.RowOfCommand
end Sys2Proof
end

