-- ==== Sys2Proof/Laws/Units.lean ====
section
/-!
SUPPORT. What the units of the decode and encode paths can do: which part of their state each writes,
and which events each emits.
-/
namespace Sys2Proof.Machine

/-- A tick stores one data bit, or ends the frame with one event. -/
theorem tick_cases (q : Demod) :
    (q.idx.val ≤ 7 ∧ tick q = ({ q with acc := accWithBit q, idx := q.idx + 1 }, [])) ∨
    (7 < q.idx.val ∧ tick q = ({ q with acc := 0#8, idx := 9, bage := 0 },
      [if q.sym then Event.byte q.acc else Event.discard q.acc])) := by
  by_cases h : q.idx.val ≤ 7
  · exact .inl ⟨h, if_pos h⟩
  · exact .inr ⟨by omega, if_neg h⟩

/-- A counter-based step takes a tick when the counter reaches the bit period, else counts. -/
theorem counterStep_cases (d : Derived) (trans : Bool) (q : Demod) :
    ((if trans then (d.spbI : Int) - d.halfI else q.bitage + 1) = d.spbI ∧
      counterStep d trans q = tick { q with bitage := 0 }) ∨
    ((if trans then (d.spbI : Int) - d.halfI else q.bitage + 1) ≠ d.spbI ∧
      counterStep d trans q =
        ({ q with bitage := if trans then (d.spbI : Int) - d.halfI else q.bitage + 1 }, [])) := by
  by_cases h : (if trans then (d.spbI : Int) - d.halfI else q.bitage + 1) = (d.spbI : Int)
  · exact .inl ⟨h, if_pos h⟩
  · exact .inr ⟨h, if_neg h⟩

/-- A countdown step takes a tick when the countdown is at most one half, else counts down. -/
theorem countdownStep_cases (N : Numerics) (d : Derived) (trans : Bool) (q : Demod) :
    (∃ c, numLe c numHalf = true ∧ countdownStep N d trans q = tick { q with cd := N.add c d.spb }) ∨
    (∃ c, numLe c numHalf = false ∧ countdownStep N d trans q = ({ q with cd := c }, [])) := by
  cases h : numLe (if trans then N.mul numHalf d.spb else N.sub q.cd (numLit 1)) numHalf
  · exact .inr ⟨_, h, if_neg (by simp [h])⟩
  · exact .inl ⟨_, h, if_pos h⟩

/-- One framer step: IDLE ages, IDLE accepts, FRAMING counts by the latched policy. -/
theorem framerStep_cases (N : Numerics) (d : Derived) (q : Demod) :
    (q.idx = 9 ∧ startAccepted d q (ageOneMore q.eage) (ageStep q).bage = true ∧
      framerStep N d q = (acceptStart N d (ageStep q), [])) ∨
    (q.idx = 9 ∧ startAccepted d q (ageOneMore q.eage) (ageStep q).bage = false ∧
      framerStep N d q = (ageStep q, [])) ∨
    (q.idx ≠ 9 ∧ d.syncL = true ∧ framerStep N d q = counterStep d (isTransition q) (ageStep q)) ∨
    (q.idx ≠ 9 ∧ d.syncL = false ∧ framerStep N d q = countdownStep N d (isTransition q) (ageStep q)) := by
  unfold framerStep
  by_cases h9 : q.idx = 9
  · cases ha : startAccepted d q (ageOneMore q.eage) (ageStep q).bage <;> simp [h9, ha]
  · cases d.syncL <;> simp [h9]

/-- The frame of a tick: it writes `ACC`, `IDX` and `BAGE` only. -/
theorem tick_frame (q : Demod) :
    (tick q).1.fmemM = q.fmemM ∧ (tick q).1.fmemS = q.fmemS ∧ (tick q).1.fmPrev = q.fmPrev ∧
    (tick q).1.sym = q.sym ∧ (tick q).1.psym = q.psym ∧ (tick q).1.cd = q.cd ∧
    (tick q).1.bitage = q.bitage ∧ (tick q).1.eage = q.eage := by
  obtain ⟨-, h⟩ | ⟨-, h⟩ := tick_cases q <;> simp [h]

/-- The frame of the framer: it writes neither filter memory nor `FM_PREV`, `SYM` and `PSYM` (R55). -/
theorem framerStep_frame (N : Numerics) (d : Derived) (q : Demod) :
    (framerStep N d q).1.fmemM = q.fmemM ∧ (framerStep N d q).1.fmemS = q.fmemS ∧
    (framerStep N d q).1.fmPrev = q.fmPrev ∧ (framerStep N d q).1.sym = q.sym ∧
    (framerStep N d q).1.psym = q.psym := by
  obtain ⟨-, -, h⟩ | ⟨-, -, h⟩ | ⟨-, -, h⟩ | ⟨-, -, h⟩ := framerStep_cases N d q <;> rw [h]
  · unfold acceptStart; split <;> simp [ageStep]
  · simp [ageStep]
  · obtain ⟨-, h⟩ | ⟨-, h⟩ := counterStep_cases d (isTransition q) (ageStep q) <;> rw [h]
    · obtain ⟨h1, h2, h3, h4, h5, -⟩ := tick_frame { ageStep q with bitage := 0 }
      exact ⟨h1, h2, h3, h4, h5⟩
    · simp [ageStep]
  · obtain ⟨c, -, h⟩ | ⟨c, -, h⟩ := countdownStep_cases N d (isTransition q) (ageStep q) <;> rw [h]
    · obtain ⟨h1, h2, h3, h4, h5, -⟩ := tick_frame { ageStep q with cd := N.add c d.spb }
      exact ⟨h1, h2, h3, h4, h5⟩
    · simp [ageStep]

/-- The frame of the discriminator: it writes filter memory and `FM_PREV` only (R55). -/
theorem discriminate_frame (N : Numerics) (d : Derived) (x : NumVal) (q : Demod) :
    (discriminate N d x q).2.sym = q.sym ∧ (discriminate N d x q).2.psym = q.psym ∧
    (discriminate N d x q).2.idx = q.idx ∧ (discriminate N d x q).2.acc = q.acc ∧
    (discriminate N d x q).2.cd = q.cd ∧ (discriminate N d x q).2.bitage = q.bitage ∧
    (discriminate N d x q).2.eage = q.eage ∧ (discriminate N d x q).2.bage = q.bage := by
  unfold discriminate
  split
  · simp [phaseStep]
  · simp [powerRatioStep]

/-- The frame of the slicer: it writes `SYM` and `PSYM` only (R55, R201). -/
theorem sliceStep_frame (d : Derived) (v : NumVal) (q : Demod) :
    (sliceStep d v q).fmemM = q.fmemM ∧ (sliceStep d v q).fmemS = q.fmemS ∧
    (sliceStep d v q).fmPrev = q.fmPrev ∧ (sliceStep d v q).idx = q.idx ∧
    (sliceStep d v q).acc = q.acc ∧ (sliceStep d v q).cd = q.cd ∧
    (sliceStep d v q).bitage = q.bitage ∧ (sliceStep d v q).eage = q.eage ∧
    (sliceStep d v q).bage = q.bage := by
  simp [sliceStep]

@[simp] theorem sendSymbol_burst (N : Numerics) (d : Derived) (b : Bool) (m : Modulator) :
    (sendSymbol N d b m).1.burst = m.burst := rfl

@[simp] theorem sendSymbols_nil (N : Numerics) (d : Derived) (m : Modulator) :
    sendSymbols N d [] m = (m, []) := rfl

@[simp] theorem sendSymbols_burst (N : Numerics) (d : Derived) (bs : List Bool) (m : Modulator) :
    (sendSymbols N d bs m).1.burst = m.burst := by
  induction bs generalizing m with
  | nil => rfl
  | cons b bs ih => simp [sendSymbols, ih]

/-- A run of samples emits one SAMPLE event each. -/
theorem sampleRun_length (N : Numerics) (rot : Cplx) (n : Nat) (car : Cplx) :
    (sampleRun N rot n car).2.length = n := by
  induction n generalizing car with
  | zero => rfl
  | succ n ih => simp [sampleRun, ih]

/-- Symbols sent in two parts are the symbols sent at once. -/
theorem sendSymbols_append (N : Numerics) (d : Derived) (as bs : List Bool) (m : Modulator) :
    sendSymbols N d (as ++ bs) m =
      ((sendSymbols N d bs (sendSymbols N d as m).1).1,
        (sendSymbols N d as m).2 ++ (sendSymbols N d bs (sendSymbols N d as m).1).2) := by
  induction as generalizing m with
  | nil => simp
  | cons a as ih => simp [sendSymbols, ih]

/-- A tick emits nothing, or one BYTE or one DISCARD. -/
theorem tick_events (q : Demod) :
    (tick q).2 = [] ∨ ∃ b, (tick q).2 = [.byte b] ∨ (tick q).2 = [.discard b] := by
  obtain ⟨-, h⟩ | ⟨-, h⟩ := tick_cases q <;> rw [h]
  · simp
  · cases q.sym <;> simp

/-- A framer step emits nothing, or one BYTE or one DISCARD. -/
theorem framerStep_events (N : Numerics) (d : Derived) (q : Demod) :
    (framerStep N d q).2 = [] ∨ ∃ b, (framerStep N d q).2 = [.byte b] ∨ (framerStep N d q).2 = [.discard b] := by
  obtain ⟨-, -, h⟩ | ⟨-, -, h⟩ | ⟨-, -, h⟩ | ⟨-, -, h⟩ := framerStep_cases N d q <;> rw [h]
  · simp
  · simp
  · obtain ⟨-, h⟩ | ⟨-, h⟩ := counterStep_cases d (isTransition q) (ageStep q) <;> rw [h]
    · exact tick_events _
    · simp
  · obtain ⟨c, -, h⟩ | ⟨c, -, h⟩ := countdownStep_cases N d (isTransition q) (ageStep q) <;> rw [h]
    · exact tick_events _
    · simp

/-- Ticks taken in two parts are the ticks taken at once. -/
theorem tickAll_append (xs ys : List Bool) (q : Demod) :
    tickAll (xs ++ ys) q =
      ((tickAll ys (tickAll xs q).1).1, (tickAll xs q).2 ++ (tickAll ys (tickAll xs q).1).2) := by
  induction xs generalizing q with
  | nil => simp [tickAll]
  | cons x xs ih => simp [tickAll, ih]

/-- A run of samples emits SAMPLE events only. -/
theorem sampleRun_events (N : Numerics) (rot : Cplx) (n : Nat) (car : Cplx) :
    ∀ e ∈ (sampleRun N rot n car).2, ∃ x, e = .sample x := by
  induction n generalizing car with
  | zero => simp [sampleRun]
  | succ n ih =>
    intro e he
    simp only [sampleRun, List.mem_cons] at he
    obtain rfl | he := he
    · exact ⟨_, rfl⟩
    · exact ih _ e he

/-- Symbols emit SAMPLE events only. -/
theorem sendSymbols_events (N : Numerics) (d : Derived) (bs : List Bool) (m : Modulator) :
    ∀ e ∈ (sendSymbols N d bs m).2, ∃ x, e = .sample x := by
  induction bs generalizing m with
  | nil => simp
  | cons b bs ih =>
    intro e he
    simp only [sendSymbols, List.mem_append] at he
    exact he.elim (sampleRun_events _ _ _ _ e) (ih _ e)

/-- Sending symbols neither reads nor writes `BURST`. -/
theorem sendSymbols_withBurst (N : Numerics) (d : Derived) (bs : List Bool) (m : Modulator) (b : Bool) :
    sendSymbols N d bs { m with burst := b } =
      ({ (sendSymbols N d bs m).1 with burst := b }, (sendSymbols N d bs m).2) := by
  induction bs generalizing m with
  | nil => rfl
  | cons x xs ih =>
    have h : sendSymbol N d x { m with burst := b } =
        ({ (sendSymbol N d x m).1 with burst := b }, (sendSymbol N d x m).2) := rfl
    simp only [sendSymbols, h, ih]

/-- Only an ERROR event has tag 0xE (R86). -/
theorem eventWord_tag_eq_error {e : Event} (h : (eventWord e).extractLsb' 28 4 = 0xE#4) :
    ∃ c b, e = .error c b := by
  cases e with
  | error c b => exact ⟨c, b, rfl⟩
  | sample x => exact absurd (BitVec.extractLsb'_append_eq_left.symm.trans h) (by decide)
  | byte b => exact absurd (BitVec.extractLsb'_append_eq_left.symm.trans h) (by decide)
  | discard b => exact absurd (BitVec.extractLsb'_append_eq_left.symm.trans h) (by decide)
  | regval r v => exact absurd (BitVec.extractLsb'_append_eq_left.symm.trans h) (by decide)

end Sys2Proof.Machine
end

