-- ==== Sys2Proof/Tests/Slice0.lean ====
section
/-!
SUPPORT. The model's own tests, and a witness for the hypotheses of each statement.  Expected results come
from spec/95_test_vectors.md (the vector is named) or from the rule named; binary64 values are written as
`± m * 2^e`, converted by hand from the decimal of the vector.
-/
namespace Sys2Proof.Tests
open Sys2Proof Sys2Proof.Machine

/-- The next state of an outcome, if it is one. -/
def nextOf : Result → Option State
  | .next t => some t
  | .fault _ => none
  | .refused _ => none

/-- What one step emits after a command word is put in front of the block. -/
def eventsOfWord (w : Nat) (s : State) : Option (List Word) :=
  (nextOf (step (s.withFetchWord 32 w))).map (·.out)

/-- What a register reads after one step. -/
def regAfter (w : Nat) (r : RegNo) (s : State) : Option RegVal :=
  (nextOf (step (s.withFetchWord 32 w))).map (fun t => readReg t r)

/-- Constants small enough to follow by hand: one pass-through stage, one sample a symbol, rotors of
a quarter turn (mark) and of no turn (space). -/
def toyConstants : Derived :=
  { Derived.reset with
    fsN := numOne, baudN := numOne, fmN := numOne, fspN := numZero
    loN := .fin false 1 (-2), hiN := .fin false 3 (-2), spb := numOne, spbI := 4, halfI := 2
    gEdge := 3, gByte := 2, preN := 1, postN := 2, k := numHalf
    coef := #v[⟨numOne, numZero, numZero, numZero, numZero⟩, biquadZero, biquadZero, biquadZero]
    rotM := ⟨numZero, numOne⟩, rotS := ⟨numOne, numZero⟩, rotC := ⟨numOne, numZero⟩ }

/-- A session with these constants. -/
def toySession : State := { State.reset with mode := .run, derived := toyConstants }

/-- The reset profile in RUN: what START leaves (R125). -/
def session : State := startSession (deriveConstants State.reset.numerics State.reset.cfg 0) State.reset

/-- The reset configuration with one register written. -/
def profileWith (r : RegNo) (v : RegVal) : ConfigRegs := writeReg ConfigRegs.reset r v

/-! ## WellFormed: an ill-formed command for each check, refused (R96) -/

theorem test_register_16_refused : (AsmCommand.wrcfg 16 0).wellFormed = false := by decide
theorem test_register_minus_1_refused : (AsmCommand.rdreg (-1)).wellFormed = false := by decide
theorem test_value_too_wide_refused : (AsmCommand.wrcfg 0 0x1000000).wellFormed = false := by decide
theorem test_value_negative_refused : (AsmCommand.wrcfg 0 (-1)).wellFormed = false := by decide
theorem test_sample_too_high_refused : (AsmCommand.demod 32768).wellFormed = false := by decide
theorem test_sample_too_low_refused : (AsmCommand.demod (-32769)).wellFormed = false := by decide
theorem test_byte_256_refused : (AsmCommand.modbyte 256).wellFormed = false := by decide
theorem test_byte_negative_refused : (AsmCommand.modbyte (-1)).wellFormed = false := by decide
theorem test_extremes_accepted :
    (AsmCommand.wrcfg 15 0xFFFFFF).wellFormed = true ∧ (AsmCommand.demod (-32768)).wellFormed = true ∧
    (AsmCommand.demod 32767).wellFormed = true ∧ (AsmCommand.modbyte 255).wellFormed = true := by decide

/-! ## Decoding: words written out from the formats (ENC-1, ENC-2) -/

theorem test_decode_nop : decode 0b0000_0000000000000000000000000000#32 = .ok .nop := by decide
theorem test_decode_reset : decode 0b0001_0000000000000000000000000000#32 = .ok .reset := by decide
theorem test_decode_wrcfg :
    decode 0b0010_0110_000000000100110011001101#32 = .ok (.wrcfg 0x6#4 19661#24) := by decide
theorem test_decode_rdreg :
    decode 0b0011_1111_000000000000000000000000#32 = .ok (.rdreg 0xF#4) := by decide
theorem test_decode_start : decode 0b0100_0000000000000000000000000000#32 = .ok .start := by decide
theorem test_decode_stop : decode 0b0101_0000000000000000000000000000#32 = .ok .stop := by decide
theorem test_decode_demod :
    decode 0b0110_000000000000_1000000000000000#32 = .ok (.demod (BitVec.ofInt 16 (-32768))) := by decide
theorem test_decode_modbyte :
    decode 0b0111_00000000000000000000_01000001#32 = .ok (.modbyte 0x41#8) := by decide
theorem test_decode_modpost : decode 0b1000_0000000000000000000000000000#32 = .ok .modpost := by decide
theorem test_decode_rejects_reserved :
    decode 0x00000001#32 = .error .reservedBits ∧ decode 0x10000100#32 = .error .reservedBits ∧
    decode 0x3D000001#32 = .error .reservedBits ∧ decode 0x6001FFFF#32 = .error .reservedBits ∧
    decode 0x70000141#32 = .error .reservedBits := by decide
theorem test_decode_rejects_opcodes :
    decode 0x90000000#32 = .error .undefinedOpcode ∧ decode 0xFFFFFFFF#32 = .error .undefinedOpcode := by decide
theorem test_table_word : decodeTableWord 32 0x60007FFF = some (.demod 32767#16) := by decide
theorem test_bytes_little_endian :
    decodeBytes [0x41#8, 0x00#8, 0x00#8, 0x70#8] = .command (.modbyte 0x41#8) [] := by decide

/-- ENC-3. -/
theorem test_event_words :
    eventWord (.sample (BitVec.ofInt 16 (-15052))) = 0x1000C534#32 ∧ eventWord (.byte 0x41#8) = 0x20000041#32 ∧
    eventWord (.discard 0x5A#8) = 0x3000005A#32 ∧ eventWord (.regval 0xF#4 0x46534B#24) = 0x4F46534B#32 ∧
    eventWord (.error 2#4 0x60#8) = 0xE2000060#32 := by decide

/-! ## One step of each command -/

/-- R120. -/
theorem test_nop : nextOf (step (session.withFetchWord 32 0x00000000)) = some session := by
  simp [State.withFetchWord, pushCommand, step, runWord, deliver, exec, execNop, nextOf, outHasRoom, setInput,
    show decode (tableWord 32 0) = .ok .nop by decide]

/-- ENC-2, row 1. -/
theorem test_nop_reserved : eventsOfWord 0x00000001 State.reset = some [0xE1000000#32] := by decide

/-- R121: RESET in RUN restores BAUD and keeps `OUT`. -/
theorem test_reset :
    (nextOf (step ({ toySession with cfg := profileWith 0x1#4 7#24, out := [5#32] }.withFetchWord 32 0x10000000))).map
      (fun t => (t.cfg, t.mode, t.out)) = some (ConfigRegs.reset, .config, [5#32]) := by decide

/-- ENC-2: 0x10000100 is no reset. -/
theorem test_reset_reserved : regAfter 0x10000100 0xD#4 toySession = some 0x000015#24 := by decide

/-- CTL-2. -/
theorem test_wrcfg_ctrl : regAfter 0x28FFFFFF 0x8#4 State.reset = some 0x000007#24 := by decide

/-- P2, commands 2 and 11: BAD_REG in CONFIG, BAD_MODE before BAD_REG in RUN. -/
theorem test_wrcfg_status : eventsOfWord 0x2D000000 State.reset = some [0xE300002D#32] ∧
    eventsOfWord 0x2D000000 toySession = some [0xE200002D#32] := by decide

/-- CTL-1. -/
theorem test_rdreg_frame : eventsOfWord 0x3E000000 State.reset = some [0x4E000039#32] := by decide

/-- CTL-1. -/
theorem test_rdreg_thrhi : eventsOfWord 0x37000000 State.reset = some [0x4700C000#32] := by decide

/-- CTL-5 and CTL-4 (POLES 3). -/
theorem test_start : regAfter 0x40000000 0xD#4 State.reset = some 0x000001#24 := by decide
theorem test_start_invalid :
    eventsOfWord 0x40000000 { State.reset with cfg := profileWith 0x5#4 3#24 } = some [0xE4000040#32] := by decide

/-- CTL-5, P2 command 18. -/
theorem test_stop : regAfter 0x50000000 0xD#4 toySession = some 0x000000#24 := by decide
theorem test_stop_in_config : eventsOfWord 0x50000000 State.reset = some [0xE2000050#32] := by decide

/-- SRC-4: `DEMOD 0` after START decides 0.5, so no symbol changes; the ages count one sample. -/
theorem test_demod_silence :
    (nextOf (step (session.withFetchWord 32 0x60000000))).map
      (fun t => (t.out, t.demod.sym, t.demod.idx, t.demod.eage, t.demod.bage)) =
      some ([], true, 9, 1, 1) := by decide +kernel

/-- R217, R218, R222: silence in FRAMING with `IDX` 8 and `CD` 1.5 is the stop tick; the byte is `ACC`. -/
theorem test_demod_stop_tick :
    (nextOf (step ({ toySession with
        demod := { Demod.initial with idx := 8, acc := 0x41#8, cd := numThreeHalves } }.withFetchWord 32 0x60000000))).map
      (fun t => (t.out, t.demod.idx, t.demod.acc, t.demod.cd)) =
      some ([0x20000041#32], 9, 0#8, numThreeHalves) := by decide +kernel

/-- P2, command 1. -/
theorem test_demod_in_config : eventsOfWord 0x60000064 State.reset = some [0xE2000060#32] := by decide

/-- R240, R243, R245: one sample a symbol.  The preamble's mark is sampled at `CAR` = (1, 0), which gives
0, and turns a quarter; the start bit of byte 0 is then sampled at (0, 1), which gives 32767. -/
theorem test_modbyte :
    (eventsOfWord 0x70000000 toySession).map (List.take 2) = some [0x10000000#32, 0x10007FFF#32] := by decide +kernel

/-- MOD-6. -/
theorem test_modbyte_in_config : eventsOfWord 0x70000041 State.reset = some [0xE2000070#32] := by decide

/-- R249, R244: two marks at one sample each. -/
theorem test_modpost :
    (nextOf (step (toySession.withFetchWord 32 0x80000000))).map (fun t => (t.out, t.modulator.burst)) =
      some ([0x10000000#32, 0x10007FFF#32], false) := by decide +kernel

/-- R81. -/
theorem test_modpost_in_config : eventsOfWord 0x80000000 State.reset = some [0xE2000080#32] := by decide

/-! ## Derived constants and legality -/

/-- CTL-3. -/
theorem test_session_constants :
    session.derived.spb = .fin false 147 (-2) ∧ session.derived.spbI = 37 ∧ session.derived.halfI = 18 ∧
    session.derived.gEdge = 18 ∧ session.derived.gByte = 9 ∧ session.derived.nst = 2 ∧
    session.derived.loN = .fin false 1 (-2) ∧ session.derived.hiN = .fin false 3 (-2) := by decide +kernel

/-- DIS-1 and FIL-3: `K` = 0.5997338354282686, `ROT_M` = (0.749309641471643, 0.6622197982525422). -/
theorem test_session_k_and_rotor :
    session.derived.k = .fin false 2700961077756229 (-52) ∧
    session.derived.rotM = ⟨.fin false 6749181244233623 (-53), .fin false 1491186418323757 (-51)⟩ := by decide +kernel

/-- FIL-1, stage 0: `a1` = −1.9296472648815033, `a2` = 0.9367195098793162. -/
theorem test_session_stage :
    (session.derived.coef[0]).a1 = .fin true 8690358703076835 (-52) ∧
    (session.derived.coef[0]).a2 = .fin false 2109304817821581 (-51) := by decide +kernel

/-- FRM-1: the acceptance, at step 100, of a falling edge of age 101 in FC. -/
theorem test_accept :
    (framerStep referenceNumerics session.derived
      { Demod.initial with psym := true, sym := false, eage := 100, bage := 100 }).1.idx = 0 := by decide +kernel

/-- SRC-9 and R268: the line of a DISCARD event. -/
theorem test_diagnostic_line :
    diagnosticLine "fsk".toList (.discard 0x5A#8) =
      some "warning: fsk: discarding possible 0x5a\n".toList := by decide

/-- SRC-8: five bytes give two samples. -/
theorem test_pcm :
    (samplesOfBytes [0x34#8, 0x12#8, 0xFE#8, 0xFF#8, 0x00#8]).map BitVec.toInt = [4660, -2] := by decide

/-- ENC-1 and R97: lines of assembly, with a register name, a character literal and a pseudo-instruction. -/
theorem test_assemble_lines :
    (assembleLine "WRCFG FS, 8000 ; rate".toList).map (List.map encode) = some [0x20001F40#32] ∧
    (assembleLine "MODBYTE 'A'".toList).map (List.map encode) = some [0x70000041#32] ∧
    (assembleLine "DEMOD -1".toList).map (List.map encode) = some [0x6000FFFF#32] ∧
    assembleLine "DEMOD 32768".toList = none := by decide +kernel

/-- P1 and P4: SETTHR 0.3, 0.7 and SETCTRL 1, 1, 0. -/
theorem test_assemble_pseudo :
    (assembleLine "SETTHR 0.3, 0.7".toList).map (List.map encode) = some [0x26004CCD#32, 0x2700B333#32] ∧
    (assembleLine "SETCTRL 1, 1, 0".toList).map (List.map encode) = some [0x28000003#32] := by decide +kernel

/-- CTL-4, the integer checks at their edges. -/
theorem test_legality :
    legalConfig (profileWith 0x1#4 0#24) = false ∧ legalConfig (profileWith 0x1#4 5513#24) = false ∧
    legalConfig (profileWith 0x1#4 5512#24) = true ∧ legalConfig (profileWith 0x0#4 599#24) = false ∧
    legalConfig (profileWith 0x5#4 10#24) = false ∧ legalConfig (profileWith 0x2#4 5512#24) = true ∧
    legalConfig (profileWith 0x2#4 5513#24) = false ∧ legalConfig (profileWith 0x2#4 1070#24) = false ∧
    legalConfig (profileWith 0x3#4 0#24) = false ∧ legalConfig (profileWith 0x4#4 5513#24) = false ∧
    legalConfig (profileWith 0x6#4 0x008000#24) = false ∧ legalConfig (profileWith 0x7#4 0x008000#24) = false ∧
    legalConfig (profileWith 0x7#4 0xFFFFFF#24) = true := by decide

/-! ## Witnesses: data that meet the hypotheses of each statement that has any -/

/-- A state with one host move to come. -/
def withMoves (ms : List HostMove) (s : State) : State := { s with input := ms }

/-- A state whose event port holds `n` words at most. -/
def withDepth (n : Nat) (s : State) : State := { s with impl := { s.impl with outDepth := n } }

theorem witness_EncodeOfDecodeIsTheWord : decode 0x2DFFFFFF#32 = .ok (.wrcfg 0xD#4 0xFFFFFF#24) := by decide

theorem witness_NoTwoRowsMatchOneWord :
    (⟨"RDREG", 0x30000000#32, 0xF0FFFFFF#32⟩ : OpcodeRow) ∈ opcodeRows ∧
    0x3F000000#32 &&& 0xF0FFFFFF#32 = 0x30000000#32 := by decide

theorem witness_EveryWordIsARowOrRaisesIllegalOp :
    9 ≤ ((0x90000000#32).extractLsb' 28 4).toNat ∧ 9 ≤ ((0xFFFFFFFF#32).extractLsb' 28 4).toNat := by decide

theorem witness_WordsAreLittleEndianAndWhole :
    ([] : List Byte).length < 4 ∧ [1#8, 2#8, 3#8].length < 4 := by decide

theorem witness_StepRunsTheDecodedCommand :
    decode 0x3F000000#32 = .ok (.rdreg 0xF#4) ∧
    ∃ t, exec (.rdreg 0xF#4) (withDepth 1 State.reset) = .next t ∧ t.out.length ≤ 1 :=
  ⟨by decide, _, rfl, by decide⟩

/-- The other room clause: a command that emits nothing, with no room at all. -/
theorem witness_StepRunsTheDecodedCommand_full :
    decode 0x00000000#32 = .ok .nop ∧
    ∃ t, exec .nop (withDepth 0 State.reset) = .next t ∧ t.out.length = State.reset.out.length :=
  ⟨by decide, _, rfl, rfl⟩

/-- The clause for a word that is no command, with room for its one event. -/
theorem witness_StepRunsTheDecodedCommand_illegal :
    decode 0x90000000#32 = .error .undefinedOpcode ∧ decode 0x00000001#32 = .error .reservedBits ∧
    (withDepth 1 State.reset).out.length < (withDepth 1 State.reset).impl.outDepth := by decide

theorem witness_CommandWithoutRoomIsNotConsumed :
    (∃ u, runWord 0x3F000000#32 (withDepth 0 State.reset) = .next u ∧ 0 < u.out.length ∧
      u.out.length ≠ State.reset.out.length) ∧
    ([.command 0#32, .take, .powerOn] : List HostMove) = [.command 0#32] ++ .take :: [.powerOn] ∧
    ([.command 0#32, .powerOn, .take] : List HostMove) = [.command 0#32] ++ .powerOn :: [.take] ∧
    (∀ m ∈ ([.command 0#32] : List HostMove), ∃ v, m = .command v) :=
  ⟨⟨_, rfl, by decide, by decide⟩, rfl, rfl, by simp⟩

theorem witness_OnlyAStallStopsAStep :
    step (withDepth 0 (withMoves [.command 0x3F000000#32] State.reset)) = .fault .outStalled := rfl

theorem witness_IdleBlockKeepsAllState : State.reset.input = [] ∧ toySession.input = [] := by decide

theorem witness_OutIsAFifo :
    (∃ t, runWord 0x3F000000#32 { State.reset with out := [5#32] } = .next t ∧ t.out = [5#32, 0x4F46534B#32]) ∧
    (withMoves [.take] State.reset).input = [.take] :=
  ⟨⟨_, rfl, by decide⟩, rfl⟩

theorem witness_PowerOnResetSetsEveryElement :
    (withMoves [.powerOn, .take] toySession).input = [.powerOn, .take] := rfl

theorem witness_NopHasNoEffect :
    (0x00000001#32).extractLsb' 28 4 = 0#4 ∧ (0x00000001#32).extractLsb' 0 28 ≠ 0#28 ∧
    (0x08000000#32).extractLsb' 28 4 = 0#4 ∧ (0x08000000#32).extractLsb' 0 28 ≠ 0#28 := by decide

theorem witness_ResetSetsEveryElementButOut :
    (0x10000100#32).extractLsb' 28 4 = 1#4 ∧ (0x10000100#32).extractLsb' 0 28 ≠ 0#28 ∧
    (0x18000000#32).extractLsb' 28 4 = 1#4 ∧ (0x18000000#32).extractLsb' 0 28 ≠ 0#28 := by decide

theorem witness_RegistersReadTheirResetValues :
    (∃ t, exec .reset toySession = .next t) ∧ State.reset = State.reset := ⟨⟨_, rfl⟩, rfl⟩

/-- Each clause, at the register numbers where they meet. -/
theorem witness_WrcfgWritesItsRegisterOnly :
    toySession.mode ≠ .config ∧ State.reset.mode = .config ∧ 0xD ≤ (0xD#4).toNat ∧ 0xD ≤ (0xF#4).toNat ∧
    (0xC#4).toNat < 0xD ∧ (0x0#4).toNat < 0xD ∧ (0xC#4 : RegNo) ≠ 0x0#4 := by decide

theorem witness_CtrlReadsBackItsLegalBits : State.reset.mode = .config := rfl

/-- Both clauses: the reset profile is legal, and with POLES 3 it is not. -/
theorem witness_StartMakesEveryLegalityCheck :
    State.reset.mode = .config ∧ configAccepted State.reset.numerics State.reset.cfg 0 = true ∧
    legalConfig (profileWith 0x5#4 3#24) = false ∧
    numLt (oppositeGain State.reset.numerics State.reset.cfg 0) numOne = true := by decide +kernel

/-- The hypotheses of every statement about a START that succeeds: at the reset profile, and at the
edges BAUD 5512 and THRHI 0xFFFFFF (CTL-4). -/
theorem witness_StartBeginsASession :
    State.reset.mode = .config ∧ configAccepted State.reset.numerics State.reset.cfg State.reset.freeCount = true ∧
    configAccepted State.reset.numerics (profileWith 0x1#4 5512#24) 0 = true ∧
    configAccepted State.reset.numerics (profileWith 0x7#4 0xFFFFFF#24) 0 = true := by decide +kernel

theorem witness_StartLatchesScalarConstants :
    State.reset.mode = .config ∧ configAccepted State.reset.numerics State.reset.cfg State.reset.freeCount = true ∧
    (profileWith 0x9#4 0xFFFFFE#24).gedge ≠ 0xFFFFFF#24 ∧ State.reset.cfg.gedge = 0xFFFFFF#24 := by decide +kernel

theorem witness_StartDesignsTheFilter :
    State.reset.mode = .config ∧ configAccepted State.reset.numerics State.reset.cfg State.reset.freeCount = true ∧
    session.derived.nst = 2 ∧ (1 : Fin 4).val < session.derived.nst := by decide +kernel

theorem witness_StartDerivesRotors :
    State.reset.mode = .config ∧
    configAccepted State.reset.numerics State.reset.cfg State.reset.freeCount = true := by decide +kernel

theorem witness_StartDerivesTheGainConstant :
    State.reset.mode = .config ∧
    configAccepted State.reset.numerics (profileWith 0x5#4 8#24) 0 = true := by decide +kernel

theorem witness_StopLeavesTheSession :
    toySession.mode = .run ∧ State.reset.mode ≠ .run ∧ (0x50000001#32).extractLsb' 28 4 = 5#4 ∧
    (0x50000001#32).extractLsb' 0 28 ≠ 0#28 := by decide

theorem witness_WrongModeRaisesBadMode :
    toySession.mode = .run ∧ State.reset.mode = .config ∧
    (∃ r v, (Instr.wrcfg 0xF#4 0#24) = .wrcfg r v) ∧ (∃ x, (Instr.demod 0#16) = .demod x) ∧
    ∃ b, (Instr.modbyte 0#8) = .modbyte b :=
  ⟨rfl, rfl, ⟨_, _, rfl⟩, ⟨_, rfl⟩, ⟨_, rfl⟩⟩

/-- Words of each kind: one that runs, one that raises BAD_MODE, one that is no command. -/
theorem witness_AWordRunsOrRaisesOneError :
    decode 0x3D000000#32 ≠ .ok .reset ∧ decode 0x60000064#32 ≠ .ok .reset ∧ decode 0x90000000#32 ≠ .ok .reset := by
  decide

/-- START, STOP and RESET each change the mode somewhere. -/
theorem witness_ModeIsChangedByThreeCommandsOnly :
    (nextOf (exec .start State.reset)).map (·.mode) = some .run ∧
    (nextOf (exec .stop toySession)).map (·.mode) = some .config ∧
    (nextOf (exec .reset toySession)).map (·.mode) = some .config := by decide +kernel

/-- RESET and WRCFG each change the configuration somewhere. -/
theorem witness_ConfigurationIsFixedInASession :
    (nextOf (exec (.wrcfg 0x0#4 8000#24) State.reset)).map (·.cfg.fs) = some 8000#24 ∧ State.reset.cfg.fs ≠ 8000#24 ∧
    (nextOf (exec .reset { State.reset with cfg := profileWith 0x0#4 8000#24 })).map (·.cfg.fs) = some 11025#24 := by
  decide

/-- START changes the constants somewhere, and so does RESET, whatever the free values are. -/
theorem witness_ConstantsAreLatchedByStart :
    (nextOf (exec .start State.reset)).map (·.derived.spbI) = some 37 ∧ State.reset.derived.spbI ≠ 37 ∧
    ∃ t, exec .reset { State.reset with derived := { Derived.reset with spbI := 2 ^ 24 } } = .next t ∧
      t.derived.spbI ≠ 2 ^ 24 :=
  ⟨by decide +kernel, by decide, _, rfl, Nat.ne_of_lt (Config.freeInt 0 0).isLt⟩

/-- DEMOD changes demodulator state, MODPOST and MODBYTE modulator state. -/
theorem witness_UnitsOwnTheirState :
    (nextOf (exec (.demod 0#16) toySession)).map (·.demod.eage) = some 1 ∧ toySession.demod.eage ≠ 1 ∧
    (nextOf (exec (.modbyte 0#8) toySession)).map (·.modulator.burst) = some true ∧
    toySession.modulator.burst ≠ true ∧ toySession.mode = .run ∧ toyConstants.discL = false := by decide +kernel

theorem witness_StepKeepsTheImplementation : ∃ t, step (withMoves [.powerOn] toySession) = .next t := ⟨_, rfl⟩

theorem witness_DemodTakesOneSample :
    toySession.mode = .run ∧ session.mode = .run ∧ ∃ v u, (v, u) = discriminate session.numerics session.derived
      (session.numerics.div (session.numerics.ofInt (0x8000#16 : Sample).toInt) (numLit 32768)) session.demod :=
  ⟨rfl, rfl, _, _, rfl⟩

/-- Both strategies. -/
theorem witness_StrategyClocksItsBranches :
    toySession.mode = .run ∧ toySession.derived.discL = false ∧
    ({ toySession with derived := { toyConstants with discL := true } }).mode = .run := by decide

theorem witness_FilterStepRunsTheCascade :
    toyConstants.nst ≤ 4 ∧ (0 : Nat) < toyConstants.nst ∧ toyConstants.nst ≤ 1 ∧
    ({ toyConstants with nst := 4 }).nst ≤ 4 := by decide

/-- Both clauses: silence gives a total of zero, the sample 1 through the pass-through stage gives 2. -/
theorem witness_PowerRatioDecision :
    toyConstants.discL = false ∧
    numEq (referenceNumerics.add
      (abs2 referenceNumerics (filterStep referenceNumerics toyConstants filterMemZero toyConstants.rotM numZero).1)
      (abs2 referenceNumerics (filterStep referenceNumerics toyConstants filterMemZero toyConstants.rotS numZero).1))
      numZero = true ∧
    numEq (referenceNumerics.add
      (abs2 referenceNumerics (filterStep referenceNumerics toyConstants filterMemZero toyConstants.rotM numOne).1)
      (abs2 referenceNumerics (filterStep referenceNumerics toyConstants filterMemZero toyConstants.rotS numOne).1))
      numZero = false := by decide +kernel

/-- The product `p` of the statement, for the pass-through stage, a sample of 1 and the previous output `prev`. -/
def toyProduct (prev rot : Cplx) : Cplx :=
  cmul referenceNumerics
    (filterStep referenceNumerics { toyConstants with discL := true, rotC := rot } filterMemZero rot numOne).1
    (conj referenceNumerics (cmul referenceNumerics prev rot))

/-- The three cases of the angle: both parts zero, a zero imaginary part, neither. -/
theorem witness_PhaseDifferenceDecision :
    (numEq (toyProduct cplxZero ⟨numOne, numZero⟩).re numZero = true ∧
      numEq (toyProduct cplxZero ⟨numOne, numZero⟩).im numZero = true) ∧
    (numEq (toyProduct ⟨numOne, numZero⟩ ⟨numOne, numZero⟩).re numZero = false ∧
      numEq (toyProduct ⟨numOne, numZero⟩ ⟨numOne, numZero⟩).im numZero = true) ∧
    numEq (toyProduct ⟨numOne, numZero⟩ ⟨numZero, numOne⟩).im numZero = false := by decide +kernel

/-- At both thresholds themselves. -/
theorem witness_SlicerHasHysteresis :
    numLe toyConstants.loN toyConstants.loN = true ∧ numLe toyConstants.loN toyConstants.hiN = true ∧
    numLe toyConstants.hiN toyConstants.hiN = true := by decide

theorem witness_AgeCountersCountSamples : toySession.mode = .run := rfl

/-- A falling edge in IDLE, at the ages where the window and the byte guard begin to pass, and below. -/
def fallingEdge (eage bage : Nat) : Demod := { Demod.initial with psym := true, sym := false, eage := eage, bage := bage }

theorem witness_IdleAcceptsAStartEdge :
    (fallingEdge 2 1).idx = 9 ∧ (fallingEdge 2 1).psym = true ∧ (fallingEdge 2 1).sym = false ∧
    toyConstants.wcmpL = false ∧ toyConstants.syncL = false ∧
    ({ toyConstants with syncL := true, wcmpL := true }).syncL = true ∧
    min ((fallingEdge 2 1).eage + 1) (2 ^ 24 - 1) ≥ toyConstants.gEdge ∧
    min ((fallingEdge 2 1).bage + 1) (2 ^ 24 - 1) ≥ toyConstants.gByte ∧
    ¬ (min ((fallingEdge 1 1).eage + 1) (2 ^ 24 - 1) ≥ toyConstants.gEdge) ∧
    min ((fallingEdge 2 1).eage + 1) (2 ^ 24 - 1) = toyConstants.gEdge ∧
    min ((fallingEdge (2 ^ 24 - 1) 0).eage + 1) (2 ^ 24 - 1) ≠ toyConstants.gEdge := by decide

/-- FRAMING in FC: a countdown that lands on 0.5 exactly, and one that stays above. -/
theorem witness_CountdownTimesTheTicks :
    (0 : Fin 10) ≠ 9 ∧ (8 : Fin 10) ≠ 9 ∧ toyConstants.syncL = false ∧
    numLe (referenceNumerics.sub (.fin false 3 (-1)) numOne) (.fin false 1 (-1)) = true ∧
    numLe (referenceNumerics.sub (numLit 2) numOne) (.fin false 1 (-1)) = false := by decide +kernel

/-- FRAMING in CB: a count that reaches `SPB_I`, and one that does not. -/
theorem witness_CounterTimesTheTicks :
    (0 : Fin 10) ≠ 9 ∧ ({ toyConstants with syncL := true }).syncL = true ∧
    (3 + 1 : Int) = toyConstants.spbI ∧ (2 + 1 : Int) ≠ toyConstants.spbI := by decide

theorem witness_DataTickStoresOneBit :
    ({ Demod.initial with idx := 0 }).idx.val ≤ 7 ∧ ({ Demod.initial with idx := 7 }).idx.val ≤ 7 := by decide

theorem witness_StopTickEndsTheFrame : ({ Demod.initial with idx := 8 }).idx = 8 := rfl

theorem witness_NineTicksRecoverTheByte :
    ({ Demod.initial with idx := 0 }).idx = 0 ∧ ({ Demod.initial with idx := 0 }).acc = 0#8 ∧ 8 ≤ 8 := by decide

/-- With a preamble and, once `BURST` is set, without. -/
theorem witness_ModbyteSendsAFrame :
    toySession.mode = .run ∧ toySession.modulator.burst = false ∧
    ({ toySession with modulator := { Modulator.initial with burst := true } }).mode = .run := by decide

theorem witness_ModpostSendsThePostamble : toySession.mode = .run := rfl

theorem witness_SymbolIsARunOfRotations :
    (numFloor (referenceNumerics.add Modulator.initial.mt toyConstants.spb)).toNat = 1 ∧
    ∃ next : Cplx → Cplx, ∀ c c' : Cplx, c' = cmul referenceNumerics c (if true then toyConstants.rotM else toyConstants.rotS) →
      next c = cscale referenceNumerics (referenceNumerics.mul (referenceNumerics.sub (numLit 3)
        (abs2 referenceNumerics c')) numHalf) c' :=
  ⟨by decide +kernel, advanceCarrier referenceNumerics toyConstants.rotM, by rintro c c' rfl; rfl⟩

theorem witness_DemodAndModulatorCommute :
    toySession.mode = .run ∧ (Instr.modpost = .modpost) ∧ ∃ b, Instr.modbyte 0x41#8 = .modbyte b := ⟨rfl, rfl, _, rfl⟩

/-- A legal state with a command to come, and its step. -/
theorem witness_StepKeepsLegalStates :
    Inv (withMoves [.command 0x3F000000#32] State.reset) ∧
    ∃ t, step (withMoves [.command 0x3F000000#32] State.reset) = .next t :=
  ⟨{ ctrl := by unfold CtrlLegal; decide
     cause := by unfold CauseLegal; decide
     out := by unfold OutLegal withMoves State.reset; simp
     depth := by unfold OutWithinDepth; decide
     ages := by unfold AgesLegal; decide
     acc := by unfold AccLegal; decide
     strategy := by unfold StrategyLegal; decide
     policy := by unfold PolicyLegal; decide
     bitage := by unfold BitageLegal; decide
     session := by unfold SessionLegal withMoves State.reset; simp }, _, rfl⟩

theorem witness_PcmBytesReadBack : ([] : List Byte).length ≤ 1 ∧ [0x7F#8].length ≤ 1 := by decide

theorem witness_AssemblerRefusesOutOfRangeOperands :
    (AsmCommand.demod 32768).wellFormed = false ∧ assemble (.demod (-1)) = some (.demod 0xFFFF#16) := by decide

theorem witness_HostReportsEachEventOnce :
    (∃ b, Event.discard 0x5A#8 = .discard b) ∧ (∃ b, Event.byte 0x41#8 = .byte b) ∧
    (∃ x, Event.sample 0#16 = .sample x) ∧ (∀ b, Event.sample 0#16 ≠ .byte b) ∧
    (∀ b, Event.byte 0#8 ≠ .discard b) ∧ ∀ x, Event.byte 0#8 ≠ .sample x :=
  ⟨⟨_, rfl⟩, ⟨_, rfl⟩, ⟨_, rfl⟩, by simp, by simp, by simp⟩

end Sys2Proof.Tests
end

section
/-!
R5: nothing the block or the host does writes what the implementation fixes.  Each layer of a step
(command, word, stall) keeps `impl`, and a step is made of these.
-/
namespace Sys2Proof.Machine

/-- No command writes the implementation parameters (R5). -/
theorem exec_impl {i : Instr} {s t : State} (h : exec i s = .next t) : t.impl = s.impl := by
  cases i with
  | nop => rw [nop_cases h]
  | reset => simp [reset_cases h]
  | wrcfg r v => obtain ⟨-, rfl⟩ | ⟨-, -, rfl⟩ | ⟨-, -, rfl⟩ := wrcfg_cases h <;> simp
  | rdreg r => simp [rdreg_cases h]
  | start => obtain ⟨-, rfl⟩ | ⟨-, -, rfl⟩ | ⟨-, -, rfl⟩ := start_cases h <;> simp
  | stop => obtain ⟨-, rfl⟩ | ⟨-, rfl⟩ := stop_cases h <;> simp
  | demod x => obtain ⟨-, rfl⟩ | ⟨-, rfl⟩ := demod_cases h <;> simp
  | modbyte b => obtain ⟨-, rfl⟩ | ⟨-, rfl⟩ := modbyte_cases h <;> simp
  | modpost => obtain ⟨-, rfl⟩ | ⟨-, rfl⟩ := modpost_cases h <;> simp

/-- No word writes the implementation parameters, whether it decodes or is illegal (R5). -/
theorem runWord_impl {w : Word} {s t : State} (h : runWord w s = .next t) : t.impl = s.impl := by
  obtain ⟨i, -, hi⟩ | ⟨e, -, he⟩ := runWord_cases h
  · exact exec_impl hi.symm
  · cases he
    simp

/-- The host's moves that end a stall leave the implementation parameters as they were (R5). -/
theorem stall_impl {w : Word} {ms : List HostMove} {s t : State} (h : stall w ms s = .next t) :
    t.impl = s.impl := by
  obtain ⟨left, -, rfl⟩ | ⟨left, -, rfl⟩ := stall_cases h <;> simp

/-- Settles O35: each of the five things a step can be (idle, a take, a power-on reset, a word
consumed, a stall) keeps `impl`. -/
theorem stepKeepsTheImplementation : Obligations.StepKeepsTheImplementation := by
  intro s t h
  obtain ⟨-, rfl⟩ | ⟨ms, -, rfl⟩ | ⟨ms, -, rfl⟩ | ⟨w, ms, -, hw, -⟩ | ⟨w, ms, -, hs⟩ := step_cases h
  · rfl
  · simp
  · simp
  · simpa using runWord_impl hw
  · exact stall_impl hs

end Sys2Proof.Machine
end

section
/-!
The fields of STATUS and FRAME (R34, R35): each bit of the two words said once, then the fields read off.
-/
namespace Sys2Proof.Machine

/-- STATUS bit by bit: MODE, ERR, a 0, CAUSE, and above them 0. -/
theorem getLsbD_statusWord (s : State) (i : Nat) :
    (statusWord s).getLsbD i =
      if i < 2 then (modeBits s.mode).getLsbD i else if i = 2 then s.err
      else if i = 3 then false else s.cause.getLsbD (i - 4) := by
  simp only [statusWord, BitVec.getLsbD_setWidth, BitVec.getLsbD_append]
  by_cases h : i < 8
  · interval_cases i <;> simp
  · have hi : ¬ i < 2 ∧ i ≠ 2 ∧ i ≠ 3 ∧ ¬ i < 1 + (1 + 2) := by omega
    simp [hi, BitVec.getLsbD_of_ge s.cause (i - 4) (by omega)]

/-- FRAME bit by bit: IDX, SYM, PSYM, two 0s, ACC, BURST, and above them 0. -/
theorem getLsbD_frameWord (s : State) (i : Nat) :
    (frameWord s).getLsbD i =
      if i < 4 then (idxBits s.demod.idx).getLsbD i else if i = 4 then s.demod.sym
      else if i = 5 then s.demod.psym else if i < 8 then false
      else if i < 16 then s.demod.acc.getLsbD (i - 8) else decide (i = 16) && s.modulator.burst := by
  simp only [frameWord, BitVec.getLsbD_setWidth, BitVec.getLsbD_append]
  by_cases h : i < 17
  · interval_cases i <;> simp
  · have hi : ¬ i < 4 ∧ i ≠ 4 ∧ i ≠ 5 ∧ ¬ i < 8 ∧ ¬ i < 16 ∧ i ≠ 16 := by omega
    have h0 : i - 16 ≠ 0 := by omega
    simp [hi, h0]

/-- A field of a word, from the bits of the word. -/
theorem extractLsb'_eq_of_bits {w n lo : Nat} {v : BitVec w} {f : BitVec n}
    (h : ∀ i, i < n → v.getLsbD (lo + i) = f.getLsbD i) : v.extractLsb' lo n = f := by
  apply BitVec.eq_of_getLsbD_eq
  intro i hi
  simp [hi, h i hi]

/-- Settles O20: the bits of each field are the bits of the two words at its place. -/
theorem statusAndFrameFields : Obligations.StatusAndFrameFields := by
  intro s
  have hs : readReg s 0xD#4 = statusWord s := rfl
  have hf : readReg s 0xE#4 = frameWord s := rfl
  rw [hs, hf]
  refine ⟨⟨?mode, ?err, ?zero3, ?cause, ?zero8⟩, ?idx, ?sym, ?psym, ?zero6, ?acc, ?burst, ?zero17⟩
  case err => exact getLsbD_statusWord s 2
  case zero3 => exact getLsbD_statusWord s 3
  case sym => exact getLsbD_frameWord s 4
  case psym => exact getLsbD_frameWord s 5
  case burst => exact getLsbD_frameWord s 16
  case mode =>
    refine extractLsb'_eq_of_bits fun i hi => ?_
    rw [getLsbD_statusWord, if_pos (by omega), Nat.zero_add]
    rfl
  case idx =>
    refine extractLsb'_eq_of_bits fun i hi => ?_
    rw [getLsbD_frameWord, if_pos (by omega), Nat.zero_add]
    rfl
  case cause | zero8 => exact extractLsb'_eq_of_bits (by grind [getLsbD_statusWord])
  case zero6 | acc | zero17 => exact extractLsb'_eq_of_bits (by grind [getLsbD_frameWord])

end Sys2Proof.Machine
end

section
/-!
What a command can do, said once for all nine: `Effect s i t` lists the next states `t` of `i` from `s`, with
every error in one case.  Claims about every command are case splits on it.
-/
namespace Sys2Proof.Machine

/-- The next states a command can leave (R120 to R136, R160, R240, R249, R262). -/
inductive Effect (s : State) : Instr → State → Prop where
  | nop : Effect s .nop s
  | reset : Effect s .reset (resetBlock s)
  | write (r : RegNo) (v : RegVal) : s.mode = .config →
      Effect s (.wrcfg r v) (setCfg (writeReg s.cfg r v) s)
  | read (r : RegNo) : Effect s (.rdreg r) (emit (.regval r (readReg s r)) s)
  | session : s.mode = .config → configAccepted s.numerics s.cfg s.freeCount = true →
      Effect s .start (startSession (deriveConstants s.numerics s.cfg s.freeCount) s)
  | stop : s.mode = .run → Effect s .stop (setMode .config s)
  | sample (x : Sample) : s.mode = .run →
      Effect s (.demod x) (emitAll (demodStep s.numerics s.derived x s.demod).2
        (setDemod (demodStep s.numerics s.derived x s.demod).1 s))
  | byte (b : Byte) : s.mode = .run →
      Effect s (.modbyte b) (emitAll (modbyteStep s.numerics s.derived b s.modulator).2
        (setModulator (modbyteStep s.numerics s.derived b s.modulator).1 s))
  | postamble : s.mode = .run →
      Effect s .modpost (emitAll (modpostStep s.numerics s.derived s.modulator).2
        (setModulator (modpostStep s.numerics s.derived s.modulator).1 s))
  | error (i : Instr) (c : Cause) : Effect s i (raiseError c (encode i) s)

/-- A command that goes on has one of the effects listed. -/
theorem exec_effect {i : Instr} {s t : State} (h : exec i s = .next t) : Effect s i t := by
  cases i with
  | nop => rw [nop_cases h]; exact .nop
  | reset => rw [reset_cases h]; exact .reset
  | wrcfg r v =>
    obtain ⟨-, rfl⟩ | ⟨-, -, rfl⟩ | ⟨hm, -, rfl⟩ := wrcfg_cases h
    · exact .error _ _
    · exact .error _ _
    · exact .write r v hm
  | rdreg r => rw [rdreg_cases h]; exact .read r
  | start =>
    obtain ⟨-, rfl⟩ | ⟨-, -, rfl⟩ | ⟨hm, ha, rfl⟩ := start_cases h
    · exact .error _ _
    · exact .error _ _
    · exact .session hm ha
  | stop =>
    obtain ⟨-, rfl⟩ | ⟨hm, rfl⟩ := stop_cases h
    · exact .error _ _
    · exact .stop hm
  | demod x =>
    obtain ⟨-, rfl⟩ | ⟨hm, rfl⟩ := demod_cases h
    · exact .error _ _
    · exact .sample x hm
  | modbyte b =>
    obtain ⟨-, rfl⟩ | ⟨hm, rfl⟩ := modbyte_cases h
    · exact .error _ _
    · exact .byte b hm
  | modpost =>
    obtain ⟨-, rfl⟩ | ⟨hm, rfl⟩ := modpost_cases h
    · exact .error _ _
    · exact .postamble hm

end Sys2Proof.Machine
end

section
/-!
Who writes what (R37, R39, R55): for each part of the state, the effects that write it.
-/
namespace Sys2Proof.Machine

/-- Settles O31: every effect but the start and the end of a session and the reset keeps the mode. -/
theorem modeIsChangedByThreeCommandsOnly : Obligations.ModeIsChangedByThreeCommandsOnly := by
  intro i s t h hne
  cases exec_effect h with
  | session hm => exact .inl ⟨rfl, hm, rfl⟩
  | stop hm => exact .inr (.inl ⟨rfl, hm, rfl⟩)
  | reset => exact .inr (.inr ⟨rfl, rfl⟩)
  | nop | write | read | sample | byte | postamble | error => simp at hne

/-- Settles O33: every effect but the start of a session and the reset keeps the constants. -/
theorem constantsAreLatchedByStart : Obligations.ConstantsAreLatchedByStart := by
  intro i s t h hne
  cases exec_effect h with
  | session hm => exact .inr ⟨rfl, hm, rfl⟩
  | reset => exact .inl rfl
  | nop | write | read | stop | sample | byte | postamble | error => simp at hne

/-- The demodulator state is DEMOD's, but for START and RESET, which initialise it. -/
theorem exec_demod_changes {i : Instr} {s t : State} (h : exec i s = .next t) (hne : t.demod ≠ s.demod) :
    i = .reset ∨ i = .start ∨ ∃ x, i = .demod x := by
  cases exec_effect h with
  | reset => exact .inl rfl
  | session => exact .inr (.inl rfl)
  | sample x => exact .inr (.inr ⟨x, rfl⟩)
  | nop | write | read | stop | byte | postamble | error => simp at hne

/-- The modulator state is MODBYTE's and MODPOST's, but for START and RESET, which initialise it. -/
theorem exec_modulator_changes {i : Instr} {s t : State} (h : exec i s = .next t)
    (hne : t.modulator ≠ s.modulator) :
    i = .reset ∨ i = .start ∨ i = .modpost ∨ ∃ b, i = .modbyte b := by
  cases exec_effect h with
  | reset => exact .inl rfl
  | session => exact .inr (.inl rfl)
  | postamble => exact .inr (.inr (.inl rfl))
  | byte b => exact .inr (.inr (.inr ⟨b, rfl⟩))
  | nop | write | read | stop | sample | error => simp at hne

/-- The discriminator runs the latched strategy: phase difference when `DISC_L` is 1 (R180). -/
theorem discriminate_of_discL {d : Derived} (h : d.discL = true) (N : Numerics) (x : NumVal) (q : Demod) :
    discriminate N d x q = phaseStep N d x q := if_pos h

/-- The discriminator runs the latched strategy: power ratio when `DISC_L` is 0 (R180). -/
theorem discriminate_of_not_discL {d : Derived} (h : d.discL = false) (N : Numerics) (x : NumVal) (q : Demod) :
    discriminate N d x q = powerRatioStep N d x q := if_neg (by simp [h])

/-- What the discriminator writes: a filter step of branch M; a filter step of branch S or nothing of
it; and `FM_PREV`, which the power ratio keeps. -/
theorem discriminate_writes (N : Numerics) (d : Derived) (x : NumVal) (q : Demod) :
    ∃ (mm ms : FilterMem) (p : Cplx),
      (discriminate N d x q).2 = { q with fmemM := mm, fmemS := ms, fmPrev := p } ∧
      (∃ adv, mm = (filterStep N d q.fmemM adv x).2) ∧
      (ms = q.fmemS ∨ ∃ adv, ms = (filterStep N d q.fmemS adv x).2) ∧
      (d.discL = false → p = q.fmPrev) := by
  cases hd : d.discL with
  | true =>
    rw [discriminate_of_discL hd]
    exact ⟨_, _, _, rfl, ⟨_, rfl⟩, .inl rfl, by simp⟩
  | false =>
    rw [discriminate_of_not_discL hd]
    exact ⟨_, _, _, rfl, ⟨_, rfl⟩, .inr ⟨_, rfl⟩, fun _ => rfl⟩

/-- What the framer writes: `framerStep_frame` says which fields it keeps, and these are the others. -/
theorem framerStep_writes (N : Numerics) (d : Derived) (q : Demod) :
    ∃ (idx : Fin 10) (acc : Byte) (cd : NumVal) (bitage : Int) (eage bage : Nat),
      (framerStep N d q).1 =
        { q with idx := idx, acc := acc, cd := cd, bitage := bitage, eage := eage, bage := bage } := by
  obtain ⟨hM, hS, hP, hsym, hpsym⟩ := framerStep_frame N d q
  refine ⟨(framerStep N d q).1.idx, (framerStep N d q).1.acc, (framerStep N d q).1.cd,
    (framerStep N d q).1.bitage, (framerStep N d q).1.eage, (framerStep N d q).1.bage, ?_⟩
  rw [← hM, ← hS, ← hP, ← hsym, ← hpsym]

/-- Settles O34: the two command clauses, then one clause per unit of the decode path. -/
theorem unitsOwnTheirState : Obligations.UnitsOwnTheirState := by
  refine ⟨fun i s t h => ⟨exec_demod_changes h, exec_modulator_changes h⟩, discriminate_writes,
    fun d v q => ⟨_, _, rfl⟩, framerStep_writes, fun s t x hm h => ?demod⟩
  obtain ⟨hc, -⟩ | ⟨-, rfl⟩ := demod_cases h
  · exact absurd hm hc
  · exact ⟨_, rfl⟩

end Sys2Proof.Machine
end

section
/-!
The decode path on the demodulator state alone: `DemodLegal` gathers the clauses of a legal state that speak
of it (R41 to R48), and each unit keeps them.
-/
namespace Sys2Proof.Machine

/-- An age counter saturates (R48, R212). -/
theorem ageOneMore_le (v : Nat) : ageOneMore v ≤ Config.ageMax := min_le_right _ _

/-- The bit a data tick writes lies below the next `IDX` (R221). -/
theorem accWithBit_lt {q : Demod} (h : q.acc.toNat < 2 ^ q.idx.val) :
    (accWithBit q).toNat < 2 ^ (q.idx.val + 1) := by
  have hbit : ((BitVec.ofBool q.sym).zeroExtend 8).toNat < 2 := by cases q.sym <;> decide
  have hshift : ((BitVec.ofBool q.sym).zeroExtend 8 <<< q.idx.val).toNat < 2 ^ (q.idx.val + 1) := by
    rw [BitVec.toNat_shiftLeft, Nat.shiftLeft_eq, pow_succ' 2 q.idx.val]
    exact (Nat.mod_le _ _).trans_lt (Nat.mul_lt_mul_of_pos_right hbit (Nat.two_pow_pos _))
  rw [accWithBit, BitVec.toNat_or]
  exact Nat.or_lt_two_pow (h.trans (Nat.pow_lt_pow_succ (by decide))) hshift

/-- Legal demodulator state in a session with the constants `d`: the clauses of `Inv` that speak of it. -/
structure DemodLegal (d : Derived) (q : Demod) : Prop where
  ages : q.eage ≤ Config.ageMax ∧ q.bage ≤ Config.ageMax
  acc : (q.idx = 9 → q.acc = 0#8) ∧ q.acc.toNat < 2 ^ q.idx.val
  strategy : (d.discL = false → q.fmPrev = cplxZero) ∧ (d.discL = true → q.fmemS = filterMemZero)
  policy : (d.syncL = false → q.bitage = 0) ∧ (d.syncL = true → q.cd = numZero)
  bitage : -(d.halfI : Int) ≤ q.bitage ∧ q.bitage < d.spbI
  period : 0 < d.spbI

namespace DemodLegal
variable {N : Numerics} {d : Derived} {q : Demod}

/-- Each strategy writes only its own part of the state (R41, R42, R159). -/
theorem discriminate (h : DemodLegal d q) (x : NumVal) :
    DemodLegal d (Machine.discriminate N d x q).2 := by
  cases hd : d.discL with
  | true =>
    rw [discriminate_of_discL hd]
    exact { h with strategy := ⟨by simp [hd], h.strategy.2⟩ }
  | false =>
    rw [discriminate_of_not_discL hd]
    exact { h with strategy := ⟨h.strategy.1, by simp [hd]⟩ }

/-- No clause speaks of `SYM` or `PSYM`, which are all the slicer writes (R201). -/
theorem sliceStep (h : DemodLegal d q) (v : NumVal) : DemodLegal d (Machine.sliceStep d v q) := { h with }

theorem ageStep (h : DemodLegal d q) : DemodLegal d (Machine.ageStep q) := by
  refine { h with ages := ⟨?_, ageOneMore_le q.bage⟩ }
  show (if isTransition q then 0 else ageOneMore q.eage) ≤ Config.ageMax
  split
  · exact Nat.zero_le _
  · exact ageOneMore_le q.eage

/-- `CD` may take any value in the countdown policy. -/
theorem withCd (h : DemodLegal d q) (hs : d.syncL = false) (c : NumVal) : DemodLegal d { q with cd := c } :=
  { h with policy := ⟨h.policy.1, by simp [hs]⟩ }

/-- `BITAGE` may take any value of its range in the counter policy. -/
theorem withBitage (h : DemodLegal d q) (hs : d.syncL = true) {b : Int} (hb : -(d.halfI : Int) ≤ b ∧ b < d.spbI) :
    DemodLegal d { q with bitage := b } :=
  { h with policy := ⟨by simp [hs], h.policy.2⟩, bitage := hb }

/-- A frame begins from IDLE with `ACC` 0 (R214 to R216). -/
theorem beginFrame (h : DemodLegal d q) (h9 : q.idx = 9) : DemodLegal d { q with idx := 0 } :=
  { h with acc := ⟨by simp, by simp [h.acc.1 h9]⟩ }

/-- The acceptance sets the latched policy's counter, `BITAGE` to its lower end (R214, R215). -/
theorem acceptStart (h : DemodLegal d q) (h9 : q.idx = 9) : DemodLegal d (Machine.acceptStart N d q) := by
  obtain ⟨hlo, hhi⟩ := h.bitage
  cases hs : d.syncL with
  | true =>
    rw [Machine.acceptStart, if_pos hs]
    exact (h.beginFrame h9).withBitage hs ⟨le_rfl, by omega⟩
  | false =>
    rw [Machine.acceptStart, if_neg (by simp [hs])]
    exact (h.beginFrame h9).withCd hs _

/-- A data tick writes the bit at `IDX` and moves on, the stop tick clears `ACC` (R221, R222). -/
theorem tick (h : DemodLegal d q) : DemodLegal d (Machine.tick q).1 := by
  obtain ⟨hi, ht⟩ | ⟨-, ht⟩ := tick_cases q <;> rw [ht]
  · have hnext : (q.idx + 1).val = q.idx.val + 1 :=
      Fin.val_add_one_of_lt (Fin.lt_def.mpr (Nat.lt_of_le_of_lt hi (by decide)))
    have hidle : q.idx + 1 ≠ 9 := fun h9 => by
      have := congrArg Fin.val h9
      omega
    exact { h with acc := ⟨fun h9 => absurd h9 hidle, hnext ▸ accWithBit_lt h.acc.2⟩ }
  · exact { h with ages := ⟨h.ages.1, Nat.zero_le _⟩, acc := ⟨fun _ => rfl, by simp⟩ }

/-- `BITAGE` stays below `SPB_I`: a count that reaches it takes a tick and goes back to 0 (R219, R220). -/
theorem counterStep (h : DemodLegal d q) (hs : d.syncL = true) (trans : Bool) :
    DemodLegal d (Machine.counterStep d trans q).1 := by
  obtain ⟨hlo, hhi⟩ := h.bitage
  have hp := h.period
  obtain ⟨-, hc⟩ | ⟨hne, hc⟩ := counterStep_cases d trans q <;> rw [hc]
  · exact (h.withBitage hs ⟨by omega, by omega⟩).tick
  · refine h.withBitage hs ?_
    split_ifs at hne ⊢ <;> omega

/-- The countdown policy writes `CD` only, with or without a tick (R217, R218). -/
theorem countdownStep (h : DemodLegal d q) (hs : d.syncL = false) (trans : Bool) :
    DemodLegal d (Machine.countdownStep N d trans q).1 := by
  obtain ⟨c, -, hc⟩ | ⟨c, -, hc⟩ := countdownStep_cases N d trans q <;> rw [hc]
  · exact (h.withCd hs _).tick
  · exact h.withCd hs c

/-- The framer's own cases: accept, wait, and one per policy (R210). -/
theorem framerStep (h : DemodLegal d q) : DemodLegal d (Machine.framerStep N d q).1 := by
  obtain ⟨h9, -, hf⟩ | ⟨-, -, hf⟩ | ⟨-, hs, hf⟩ | ⟨-, hs, hf⟩ := framerStep_cases N d q <;> rw [hf]
  · exact h.ageStep.acceptStart h9
  · exact h.ageStep
  · exact h.ageStep.counterStep hs _
  · exact h.ageStep.countdownStep hs _

/-- Discriminator, slicer and framer in turn (R160). -/
theorem demodStep (h : DemodLegal d q) (x : Sample) : DemodLegal d (Machine.demodStep N d x q).1 :=
  ((h.discriminate _).sliceStep _).framerStep

end DemodLegal
end Sys2Proof.Machine
end

section
/-!
The facts about events and registers that legal states rest on: which events the commands emit (R92), the
bit period of an accepted configuration (R131), and what a write leaves of CTRL (R123).
-/
namespace Sys2Proof.Machine

/-- A SAMPLE event is one the block may emit (R92). -/
theorem eventsLegal_of_samples {es : List Event} (h : ∀ e ∈ es, ∃ x, e = .sample x) : ∀ e ∈ es, EventLegal e := by
  intro e he
  obtain ⟨x, rfl⟩ := h e he
  trivial

/-- DEMOD emits nothing, one BYTE or one DISCARD. -/
theorem demodStep_eventsLegal (N : Numerics) (d : Derived) (x : Sample) (q : Demod) :
    ∀ e ∈ (demodStep N d x q).2, EventLegal e := by
  obtain h | ⟨b, h | h⟩ := framerStep_events N d
    (sliceStep d (discriminate N d (scaledSample N x) q).1 (discriminate N d (scaledSample N x) q).2) <;>
    simp [demodStep, h, EventLegal]

/-- The preamble emits SAMPLE events only. -/
theorem preamble_events (N : Numerics) (d : Derived) (m : Modulator) :
    ∀ e ∈ (preamble N d m).2, ∃ x, e = .sample x := by
  unfold preamble
  split
  · simp
  · exact sendSymbols_events _ _ _ _

/-- MODBYTE emits SAMPLE events only. -/
theorem modbyteStep_events (N : Numerics) (d : Derived) (b : Byte) (m : Modulator) :
    ∀ e ∈ (modbyteStep N d b m).2, ∃ x, e = .sample x := by
  intro e he
  obtain hp | hf := List.mem_append.mp he
  · exact preamble_events _ _ _ e hp
  · exact sendSymbols_events _ _ _ _ e hf

/-- MODPOST emits SAMPLE events only. -/
theorem modpostStep_events (N : Numerics) (d : Derived) (m : Modulator) :
    ∀ e ∈ (modpostStep N d m).2, ∃ x, e = .sample x := sendSymbols_events _ _ _ _

/-- A configuration START accepts has a bit period of at least two samples (V1 and V2 of R126, R131). -/
theorem two_le_bitPeriodInt {N : Numerics} {c : ConfigRegs} {k : Nat} (h : configAccepted N c k = true) :
    2 ≤ bitPeriodInt c := by
  simp only [configAccepted, legalConfig, Bool.and_eq_true, decide_eq_true_eq] at h
  have hb : 1 ≤ c.baud.toNat := by tauto
  have hf : 2 * c.baud.toNat ≤ c.fs.toNat := by tauto
  rw [bitPeriodInt, Nat.le_div_iff_mul_le (by omega)]
  omega

/-- A write keeps the reserved bits of CTRL at 0 (R29, R123). -/
theorem ctrl_writeReg {c : ConfigRegs} (h : c.ctrl.extractLsb' 3 21 = 0#21) (r : RegNo) (v : RegVal) :
    (writeReg c r v).ctrl.extractLsb' 3 21 = 0#21 := by
  have hk : (ctrlKept v).extractLsb' 3 21 = 0#21 :=
    extractLsb'_eq_of_bits fun i hi => by simp [ctrlKept]
  unfold writeReg
  split
  case h_9 => exact hk -- CTRL, register 0x8
  all_goals exact h

end Sys2Proof.Machine
end

section
/-!
Legal states: `Inv` holds at reset and every step keeps it.  One rule per operation on the state says which
clauses it touches; the command, the word, the stall and the step are built from these.
-/
namespace Sys2Proof.Machine

namespace Inv
variable {s t : State}

/-- In RUN the bit period is not 0. -/
theorem spbI_pos (h : Inv s) (hm : s.mode = .run) : 0 < s.derived.spbI := by
  obtain ⟨k, ha, hd⟩ := h.session hm
  rw [hd]
  exact Nat.zero_lt_two.trans_le (two_le_bitPeriodInt ha)

/-- In RUN the demodulator state is legal for the latched constants. -/
theorem demodLegal (h : Inv s) (hm : s.mode = .run) : DemodLegal s.derived s.demod where
  ages := h.ages
  acc := h.acc
  strategy := h.strategy
  policy := h.policy
  bitage := ⟨h.bitage.1, h.bitage.2.2 hm⟩
  period := h.spbI_pos hm

/-- A state with an initialised demodulator is legal whatever the constants are, if the rest of it is. -/
theorem of_initial (hq : s.demod = Demod.initial) (hctrl : CtrlLegal s) (hcause : CauseLegal s)
    (hout : OutLegal s) (hdepth : OutWithinDepth s) (hsession : SessionLegal s)
    (hp : s.mode = .run → 0 < s.derived.spbI) : Inv s where
  ctrl := hctrl
  cause := hcause
  out := hout
  depth := hdepth
  ages := by simp [AgesLegal, hq, Demod.initial]
  acc := by simp [AccLegal, hq, Demod.initial]
  strategy := by simp [StrategyLegal, hq, Demod.initial]
  policy := by simp [PolicyLegal, hq, Demod.initial]
  bitage := by simpa [BitageLegal, hq, Demod.initial] using hp
  session := hsession

/-- The host's remaining moves are no part of what `Inv` speaks of. -/
theorem setInput (h : Inv s) (ms : List HostMove) : Inv (Machine.setInput ms s) := { h with }

/-- A take removes a word (R66). -/
theorem hostTake (h : Inv s) : Inv (Machine.hostTake s) :=
  { h with
    out := fun w hw => h.out w (List.mem_of_mem_tail hw)
    depth := (List.length_tail ▸ Nat.sub_le _ _).trans h.depth }

/-- Emitting legal events touches `OUT` only (R66, R92). -/
theorem emitAll (h : Inv s) {es : List Event} (he : ∀ e ∈ es, EventLegal e)
    (hd : OutWithinDepth (Machine.emitAll es s)) : Inv (Machine.emitAll es s) := by
  refine { h with out := fun w hw => ?_, depth := hd }
  obtain hw | hw := List.mem_append.mp hw
  · exact h.out w hw
  · obtain ⟨e, hm, rfl⟩ := List.mem_map.mp hw
    exact ⟨e, he e hm, rfl⟩

/-- An error sets `ERR` and `CAUSE` together and emits a legal ERROR event (R262). -/
theorem raiseError (h : Inv s) {c : Cause} {w : Word} (hd : OutWithinDepth (Machine.raiseError c w s)) :
    Inv (Machine.raiseError c w s) := by
  refine { h with cause := ?_, out := fun v hv => ?_, depth := hd }
  · cases c <;> simp [CauseLegal, causeCode]
  · obtain hv | hv := List.mem_append.mp hv
    · exact h.out v hv
    · refine ⟨_, ?_, List.mem_singleton.mp hv⟩
      cases c <;> simp [EventLegal, causeCode]

/-- DEMOD replaces the demodulator state (R160). -/
theorem setDemod (h : Inv s) {q : Demod} (hq : DemodLegal s.derived q) : Inv (Machine.setDemod q s) :=
  { h with
    ages := hq.ages
    acc := hq.acc
    strategy := hq.strategy
    policy := hq.policy
    bitage := ⟨hq.bitage.1, hq.bitage.2.le, fun _ => hq.bitage.2⟩ }

/-- No clause speaks of the modulator state. -/
theorem setModulator (h : Inv s) (m : Modulator) : Inv (Machine.setModulator m s) := { h with }

/-- STOP: in CONFIG the session's constants are claimed no more (R136). -/
theorem endSession (h : Inv s) : Inv (setMode .config s) :=
  { h with
    bitage := ⟨h.bitage.1, h.bitage.2.1, nofun⟩
    session := nofun }

/-- WRCFG in CONFIG: no session rests on the registers (R122, R267). -/
theorem writeReg (h : Inv s) (hm : s.mode = .config) (r : RegNo) (v : RegVal) :
    Inv (setCfg (Machine.writeReg s.cfg r v) s) :=
  { h with
    ctrl := ctrl_writeReg h.ctrl r v
    session := fun hr => absurd (hm.symm.trans hr) nofun }

/-- The reset, whatever the free values of the constants are; `OUT` stays (R121, R291). -/
theorem resetBlock (h : Inv s) : Inv (Machine.resetBlock s) :=
  of_initial rfl (by simp [CtrlLegal, ConfigRegs.reset]) (by simp [CauseLegal]) h.out h.depth nofun nofun

/-- Power-on reset leads to a legal state from any state (R290, R291). -/
theorem powerOnReset (s : State) : Inv (Machine.powerOnReset s) :=
  of_initial rfl (by simp [CtrlLegal, ConfigRegs.reset]) (by simp [CauseLegal]) nofun (Nat.zero_le _) nofun nofun

/-- START latches the constants of the registers as they stand (R125, R135). -/
theorem startSession (h : Inv s) (ha : configAccepted s.numerics s.cfg s.freeCount = true) :
    Inv (Machine.startSession (deriveConstants s.numerics s.cfg s.freeCount) s) :=
  of_initial rfl h.ctrl h.cause h.out h.depth (fun _ => ⟨s.freeCount, ha, rfl⟩)
    fun _ => Nat.zero_lt_two.trans_le (two_le_bitPeriodInt ha)

/-- A command whose events have room keeps a legal state legal. -/
theorem exec (h : Inv s) {i : Instr} (he : Machine.exec i s = .next t) (hd : OutWithinDepth t) : Inv t := by
  cases exec_effect he with
  | nop => exact h
  | reset => exact h.resetBlock
  | write r v hm => exact h.writeReg hm r v
  | read r => exact h.emitAll (by simp [EventLegal]) hd
  | session hm ha => exact h.startSession ha
  | stop hm => exact h.endSession
  | sample x hm =>
    exact (h.setDemod ((h.demodLegal hm).demodStep x)).emitAll (demodStep_eventsLegal _ _ _ _) hd
  | byte b hm => exact (h.setModulator _).emitAll (eventsLegal_of_samples (modbyteStep_events _ _ _ _)) hd
  | postamble hm => exact (h.setModulator _).emitAll (eventsLegal_of_samples (modpostStep_events _ _ _)) hd
  | error => exact h.raiseError hd

/-- A word whose events have room keeps a legal state legal, whether it decodes or is illegal. -/
theorem runWord (h : Inv s) {w : Word} (hr : Machine.runWord w s = .next t) (hd : OutWithinDepth t) : Inv t := by
  obtain ⟨i, -, hi⟩ | ⟨e, -, he⟩ := runWord_cases hr
  · exact h.exec hi.symm hd
  · cases he
    exact h.raiseError hd

/-- A word that is consumed has room, so it leaves `OUT` within its capacity (R66). -/
theorem outWithinDepth_of_hasRoom (h : Inv s) (hi : t.impl = s.impl) (hr : outHasRoom s t = true) :
    OutWithinDepth t := by
  have hd := h.depth
  simp only [outHasRoom, Bool.or_eq_true, decide_eq_true_eq] at hr
  unfold OutWithinDepth at *
  rw [hi]
  omega

/-- The host's move that ends a stall keeps a legal state legal. -/
theorem stall (h : Inv s) {w : Word} {ms : List HostMove} (hs : Machine.stall w ms s = .next t) : Inv t := by
  obtain ⟨left, -, rfl⟩ | ⟨left, -, rfl⟩ := stall_cases hs
  · exact h.hostTake.setInput _
  · exact (powerOnReset s).setInput left

end Inv

/-- Settles O53: reset leaves an initialised demodulator in CONFIG, with `OUT` empty. -/
theorem resetIsLegal : Obligations.ResetIsLegal :=
  Inv.of_initial rfl (by simp [CtrlLegal, State.reset, ConfigRegs.reset]) (by simp [CauseLegal, State.reset])
    nofun (Nat.zero_le _) nofun nofun

/-- Settles O54: each of the five things a step can be (idle, a take, a power-on reset, a word
consumed, a stall) keeps `Inv`. -/
theorem stepKeepsLegalStates : Obligations.StepKeepsLegalStates := by
  intro s t h hs
  obtain ⟨-, rfl⟩ | ⟨ms, -, rfl⟩ | ⟨ms, -, rfl⟩ | ⟨w, ms, -, hw, hroom⟩ | ⟨w, ms, -, hstall⟩ := step_cases hs
  · exact h
  · exact h.hostTake.setInput ms
  · exact (Inv.powerOnReset s).setInput ms
  · have himpl : t.impl = s.impl := by simpa using runWord_impl hw
    exact (h.setInput ms).runWord hw (h.outWithinDepth_of_hasRoom himpl hroom)
  · exact h.stall hstall

end Sys2Proof.Machine
end

section
/-!
Bytes on a transport (R62 to R65): the bytes of a word or of a sample, put back together, are the word or
the sample.
-/
namespace Sys2Proof

/-- A word is its four bytes, the lowest given first (R62). -/
theorem wordOfBytes_bytes (w : Word) :
    wordOfBytes (w.extractLsb' 0 8) (w.extractLsb' 8 8) (w.extractLsb' 16 8) (w.extractLsb' 24 8) = w := by
  unfold wordOfBytes
  rw [BitVec.extractLsb'_append_extractLsb'_eq_extractLsb' (start₂ := 8) (len₁ := 8) rfl,
    BitVec.extractLsb'_append_extractLsb'_eq_extractLsb' (start₂ := 16) (len₁ := 8 + 8) rfl,
    BitVec.extractLsb'_append_extractLsb'_eq_extractLsb' (start₂ := 24) (len₁ := 8 + (8 + 8)) rfl]
  exact BitVec.extractLsb'_eq_self

/-- The bytes of a word that decodes are its command, whatever follows them (R62). -/
theorem decodeBytes_of_ok {w : Word} {i : Instr} (h : decode w = .ok i) (rest : List Byte) :
    decodeBytes (bytesOfWord w ++ rest) = .command i rest := by
  simp [bytesOfWord, decodeBytes, wordOfBytes_bytes, h]

/-- The bytes of a word that is no command are taken too, as that word (R62, R84). -/
theorem decodeBytes_of_error {w : Word} {e : DecodeError} (h : decode w = .error e) (rest : List Byte) :
    decodeBytes (bytesOfWord w ++ rest) = .illegal e w rest := by
  simp [bytesOfWord, decodeBytes, wordOfBytes_bytes, h]

/-- Up to three bytes are no word yet (R65). -/
theorem decodeBytes_incomplete {bs : List Byte} (h : bs.length < 4) : decodeBytes bs = .incomplete := by
  match bs with
  | [] | [_] | [_, _] | [_, _, _] => rfl
  | _ :: _ :: _ :: _ :: rest => simp at h; omega

/-- Settles O7: four bytes are put back together and decoded; fewer wait for the rest. -/
theorem wordsAreLittleEndianAndWhole : Obligations.WordsAreLittleEndianAndWhole := by
  refine ⟨fun w rest => ?whole, fun bs => decodeBytes_incomplete⟩
  cases h : decode w with
  | ok i => exact decodeBytes_of_ok h rest
  | error e => exact decodeBytes_of_error h rest

end Sys2Proof

namespace Sys2Proof.Machine

/-- The two bytes of a sample are read as that sample, and the rest after it (R64). -/
theorem samplesOfBytes_bytesOfSample (x : Sample) (bs : List Byte) :
    samplesOfBytes (bytesOfSample x ++ bs) = x :: samplesOfBytes bs := by
  have hx : x.extractLsb' 8 8 ++ x.extractLsb' 0 8 = x :=
    BitVec.extractLsb'_append_extractLsb' (w := 8) (len := 8)
  simp [bytesOfSample, samplesOfBytes, hx]

/-- A byte without its high byte is no sample (R64, R266). -/
theorem samplesOfBytes_odd {bs : List Byte} (h : bs.length ≤ 1) : samplesOfBytes bs = [] := by
  match bs with
  | [] | [_] => rfl
  | _ :: _ :: _ => simp at h

/-- The bytes of a list of samples read back, then what the bytes after them are. -/
theorem samplesOfBytes_flatMap (xs : List Sample) (bs : List Byte) :
    samplesOfBytes (xs.flatMap bytesOfSample ++ bs) = xs ++ samplesOfBytes bs := by
  induction xs with
  | nil => rfl
  | cons x xs ih =>
    rw [List.flatMap_cons, List.append_assoc, samplesOfBytes_bytesOfSample, ih, List.cons_append]

/-- Settles O56: the samples read back in order, and the odd byte gives none. -/
theorem pcmBytesReadBack : Obligations.PcmBytesReadBack := by
  intro xs odd h
  have hread := samplesOfBytes_flatMap xs odd
  rwa [samplesOfBytes_odd h, List.append_nil] at hread

end Sys2Proof.Machine
end

section
/-!
What the next command word does to the block (R66, R67, R83, R84, R277): it always has an effect, which only
appends to `OUT`; with room for its events the effect is the step, else the step is a stall.
-/
namespace Sys2Proof.Machine

/-- A word that decodes runs its command. -/
theorem runWord_of_ok {w : Word} {i : Instr} (h : decode w = .ok i) (s : State) : runWord w s = exec i s := by
  rw [runWord, h]

/-- Any other word raises ILLEGAL_OP (R83, R84). -/
theorem runWord_of_error {w : Word} {e : DecodeError} (h : decode w = .error e) (s : State) :
    runWord w s = .next (raiseError .illegalOp w s) := by
  rw [runWord, h]

/-- A gated effect goes on in either mode if it goes on in its own. -/
theorem requireMode_goes_on {m : Mode} {i : Instr} {s : State} {e : Result} (h : ∃ t, e = .next t) :
    ∃ t, requireMode m i s e = .next t := by
  obtain ⟨-, hr⟩ | ⟨-, hr⟩ := requireMode_cases (rfl : requireMode m i s e = _) <;> rw [hr]
  · exact h
  · exact ⟨_, rfl⟩

/-- A choice between two states is a next state. -/
theorem ite_goes_on (p : Prop) [Decidable p] (t u : State) :
    ∃ v, (if p then .next t else .next u : Result) = .next v := ⟨_, (apply_ite _ p t u).symm⟩

/-- Every command goes on from every state (R260, R277). -/
theorem exec_goes_on (i : Instr) (s : State) : ∃ t, exec i s = .next t := by
  cases i with
  | nop | reset | rdreg => exact ⟨_, rfl⟩
  | wrcfg | start => exact requireMode_goes_on (ite_goes_on _ _ _)
  | stop | demod | modbyte | modpost => exact requireMode_goes_on ⟨_, rfl⟩

/-- Every word has an effect: its command's, or ILLEGAL_OP's. -/
theorem runWord_goes_on (w : Word) (s : State) : ∃ t, runWord w s = .next t := by
  cases h : decode w with
  | ok i => exact runWord_of_ok h s ▸ exec_goes_on i s
  | error e => exact ⟨_, runWord_of_error h s⟩

/-- A command keeps the words of `OUT` and appends its events' words (R66). -/
theorem exec_appends_out {i : Instr} {s t : State} (h : exec i s = .next t) : ∃ ws, t.out = s.out ++ ws := by
  cases exec_effect h with
  | nop | reset | write | session | stop => exact ⟨[], (List.append_nil _).symm⟩
  | read | sample | byte | postamble | error => exact ⟨_, rfl⟩

/-- A word keeps the words of `OUT` and appends its events' words (R66). -/
theorem runWord_appends_out {w : Word} {s t : State} (h : runWord w s = .next t) :
    ∃ ws, t.out = s.out ++ ws := by
  obtain ⟨i, -, hi⟩ | ⟨e, -, he⟩ := runWord_cases h
  · exact exec_appends_out hi.symm
  · cases he
    exact ⟨_, rfl⟩

/-- Settles O12: words append, and a take removes the front word. -/
theorem outIsAFifo : Obligations.OutIsAFifo :=
  ⟨fun _ _ _ => runWord_appends_out, fun _ _ => step_take⟩

/-- Room in `OUT`: within the capacity, or no longer than before (R66, log entry 6). -/
theorem outHasRoom_iff (s t : State) :
    outHasRoom s t = true ↔ t.out.length ≤ s.impl.outDepth ∨ t.out.length = s.out.length := by
  simp [outHasRoom, or_comm]

/-- No room in `OUT`: something is emitted, and it ends beyond the capacity (R66, log entry 6). -/
theorem outHasRoom_ne_true_iff (s t : State) :
    outHasRoom s t ≠ true ↔ s.impl.outDepth < t.out.length ∧ t.out.length ≠ s.out.length := by
  rw [Ne, outHasRoom_iff, not_or, not_le]

/-- A command word whose events have room is consumed: its effect is the step (R66, R67). -/
theorem step_of_room {s t : State} {w : Word} {ms : List HostMove} (hi : s.input = .command w :: ms)
    (hw : runWord w (setInput ms s) = .next t) (hr : outHasRoom s t = true) : step s = .next t := by
  rw [step_command hi, hw, deliver, if_pos hr]

/-- A command word whose events have no room is not consumed: the step is a stall (R66, R67). -/
theorem step_of_no_room {s t : State} {w : Word} {ms : List HostMove} (hi : s.input = .command w :: ms)
    (hw : runWord w (setInput ms s) = .next t) (hr : outHasRoom s t ≠ true) : step s = stall w ms s := by
  rw [step_command hi, hw, deliver, if_neg hr]

/-- Settles O8: the word runs as its command or as ILLEGAL_OP, and what has room is the step. -/
theorem stepRunsTheDecodedCommand : Obligations.StepRunsTheDecodedCommand := by
  intro s t w ms hi
  have hrun (hw : runWord w (setInput ms s) = .next t)
      (hr : t.out.length ≤ s.impl.outDepth ∨ t.out.length = s.out.length) : step s = .next t :=
    step_of_room hi hw ((outHasRoom_iff s t).mpr hr)
  refine ⟨hrun, fun i hd he => hrun ((runWord_of_ok hd _).trans he), fun e hd hroom => ?illegal⟩
  refine step_of_room hi (runWord_of_error hd _) ((outHasRoom_iff _ _).mpr (.inl ?_))
  simpa using hroom

/-- A stall that a take ends: the word stays in front (R66, log entry 9). -/
theorem stall_of_taken {ms left : List HostMove} (h : stallEnd ms = some (.taken left)) (w : Word) (s : State) :
    stall w ms s = .next (setInput (.command w :: left) (hostTake s)) := by
  rw [stall, h]

/-- A stall that power-on reset ends: the moves before the reset are gone (R290, log entry 9). -/
theorem stall_of_poweredOn {ms left : List HostMove} (h : stallEnd ms = some (.poweredOn left)) (w : Word)
    (s : State) : stall w ms s = .next (setInput left (powerOnReset s)) := by
  rw [stall, h]

/-- A stall that nothing ends is the named stop (R277, log entry 7). -/
theorem stall_of_none {ms : List HostMove} (h : stallEnd ms = none) (w : Word) (s : State) :
    stall w ms s = .fault .outStalled := by
  rw [stall, h]

/-- Settles O9: the step is a stall, and the first move that is no command ends it. -/
theorem commandWithoutRoomIsNotConsumed : Obligations.CommandWithoutRoomIsNotConsumed := by
  intro s u w ms hi hw hdepth hlen
  rw [step_of_no_room hi hw ((outHasRoom_ne_true_iff s u).mpr ⟨hdepth, hlen⟩)]
  refine ⟨fun pre post hpre hms => ?take, fun pre post hpre hms => ?powerOn, fun hms => ?commandsOnly⟩
  case take => exact stall_of_taken (hms ▸ (stallEnd_commands post hpre).1) w s
  case powerOn =>
    rw [stall_of_poweredOn (hms ▸ (stallEnd_commands post hpre).2.1) w s]
    exact (step_powerOn (s := { s with input := .powerOn :: post }) rfl).symm
  case commandsOnly => exact stall_of_none (stallEnd_commands [] hms).2.2 w s

/-- Only commands to come leave a stall without an end. -/
theorem stallEnd_eq_none {ms : List HostMove} (h : stallEnd ms = none) : ∀ m ∈ ms, ∃ v, m = .command v := by
  induction ms with
  | nil => nofun
  | cons m ms ih =>
    cases m with
    | take | powerOn => cases h
    | command v =>
      have hms : stallEnd ms = none := by
        match he : stallEnd ms with
        | none => rfl
        | some (.taken _) | some (.poweredOn _) => simp [stallEnd, he] at h
      exact List.forall_mem_cons.mpr ⟨⟨v, rfl⟩, ih hms⟩

/-- A stall goes on, or only commands are to come and it is the named stop. -/
theorem stall_goes_on_or_stops (w : Word) (ms : List HostMove) (s : State) :
    (∃ t, stall w ms s = .next t) ∨
    ((∀ m ∈ ms, ∃ v, m = .command v) ∧ stall w ms s = .fault .outStalled) := by
  match h : stallEnd ms with
  | some (.taken _) => exact .inl ⟨_, stall_of_taken h w s⟩
  | some (.poweredOn _) => exact .inl ⟨_, stall_of_poweredOn h w s⟩
  | none => exact .inr ⟨stallEnd_eq_none h, stall_of_none h w s⟩

/-- A step goes on, or it is the stop of a stall: the next word's events have no room and only commands
are to come. -/
theorem step_goes_on_or_stops (s : State) :
    (∃ t, step s = .next t) ∨
    (step s = .fault .outStalled ∧ ∃ w ms u, s.input = .command w :: ms ∧
      (∀ m ∈ ms, ∃ v, m = .command v) ∧ runWord w (setInput ms s) = .next u ∧ outHasRoom s u ≠ true) := by
  match hi : s.input with
  | [] => exact .inl ⟨_, step_idle hi⟩
  | .take :: ms => exact .inl ⟨_, step_take hi⟩
  | .powerOn :: ms => exact .inl ⟨_, step_powerOn hi⟩
  | .command w :: ms =>
    obtain ⟨u, hu⟩ := runWord_goes_on w (setInput ms s)
    by_cases hr : outHasRoom s u = true
    · exact .inl ⟨u, step_of_room hi hu hr⟩
    · rw [step_of_no_room hi hu hr]
      exact (stall_goes_on_or_stops w ms s).imp_right fun ⟨hms, hs⟩ => ⟨hs, w, ms, u, rfl, hms, hu, hr⟩

/-- Settles O10: a step that does not go on is a stall without room, and its stop is a fault. -/
theorem onlyAStallStopsAStep : Obligations.OnlyAStallStopsAStep := by
  intro s
  obtain ⟨t, hs⟩ | ⟨hs, w, ms, u, hi, hms, hw, hr⟩ := step_goes_on_or_stops s <;> rw [hs]
  · exact ⟨nofun, nofun⟩
  · obtain ⟨hdepth, -⟩ := (outHasRoom_ne_true_iff s u).mp hr
    exact ⟨fun _ _ => ⟨w, ms, u, hi, hms, hw, hdepth⟩, nofun⟩

end Sys2Proof.Machine
end

section
/-!
The registers after a reset (R72, R292).
-/
namespace Sys2Proof.Machine

/-- RDREG of any register reads the same after RESET as in `State.reset`: no register shows what the two
leave different, `OUT` and the derived constants (R39, R121). -/
theorem readReg_resetBlock (s : State) (r : RegNo) : readReg (resetBlock s) r = readReg State.reset r := rfl

/-- Settles O16: RESET is reduced to the reset state, whose sixteen registers are evaluated. -/
theorem registersReadTheirResetValues : Obligations.RegistersReadTheirResetValues := by
  rintro s t (h | rfl)
  · rw [reset_cases h]
    simp only [readReg_resetBlock]
    decide
  · decide

end Sys2Proof.Machine
end

section
/-!
Command words (R80 to R85): an encoded word has its command's fields, and a word is put together again from
its fields, one lemma per format.
-/
namespace Sys2Proof

/-- A field with bits in front of it and below it. -/
theorem extractLsb'_append_middle {k m n : Nat} (a : BitVec k) (b : BitVec m) (c : BitVec n) :
    (a ++ (b ++ c)).extractLsb' n m = b := by
  rw [BitVec.extractLsb'_append_eq_of_add_le (Nat.add_comm n m).le, BitVec.extractLsb'_append_eq_left]

/-- The lowest of three fields. -/
theorem extractLsb'_append_last {k m n : Nat} (a : BitVec k) (b : BitVec m) (c : BitVec n) :
    (a ++ (b ++ c)).extractLsb' 0 n = c := by
  rw [BitVec.extractLsb'_append_eq_of_add_le (by omega), BitVec.extractLsb'_append_eq_right]

theorem opField_append (op : BitVec 4) (b : BitVec 28) : opField (op ++ b) = op :=
  BitVec.extractLsb'_append_eq_left

/-- A field that must be 0 lets a command through only when it is 0 (R83). -/
theorem ifReservedZero_eq_ok {w : Word} {lo n : Nat} {i j : Instr} :
    ifReservedZero w lo n i = .ok j ↔ w.extractLsb' lo n = 0#n ∧ i = j := by
  unfold ifReservedZero
  split <;> simp [*]

/-- Settles O1: a command without operands by evaluation, any other from the fields of its word. -/
theorem decodeOfEncodeIsTheCommand : Obligations.DecodeOfEncodeIsTheCommand := by
  intro i
  cases i with
  | nop | reset | start | stop | modpost => rfl
  | wrcfg r v =>
    have hop : opField (encode (.wrcfg r v)) = 0x2#4 := opField_append _ _
    have hr : regField (encode (.wrcfg r v)) = r := extractLsb'_append_middle _ _ _
    have hv : valueField (encode (.wrcfg r v)) = v := extractLsb'_append_last _ _ _
    simp [decode, hop, hr, hv]
  | rdreg r =>
    have hop : opField (encode (.rdreg r)) = 0x3#4 := opField_append _ _
    have hr : regField (encode (.rdreg r)) = r := extractLsb'_append_middle _ _ _
    have hz : (encode (.rdreg r)).extractLsb' 0 24 = 0#24 := extractLsb'_append_last _ _ _
    simp [decode, hop, hr, ifReservedZero_eq_ok, hz]
  | demod x =>
    have hop : opField (encode (.demod x)) = 0x6#4 := opField_append _ _
    have hz : (encode (.demod x)).extractLsb' 16 12 = 0#12 := extractLsb'_append_middle _ _ _
    have hx : sampleField (encode (.demod x)) = x := extractLsb'_append_last _ _ _
    simp [decode, hop, hx, ifReservedZero_eq_ok, hz]
  | modbyte b =>
    have hop : opField (encode (.modbyte b)) = 0x7#4 := opField_append _ _
    have hz : (encode (.modbyte b)).extractLsb' 8 20 = 0#20 := extractLsb'_append_middle _ _ _
    have hb : byteField (encode (.modbyte b)) = b := extractLsb'_append_last _ _ _
    simp [decode, hop, hb, ifReservedZero_eq_ok, hz]

/-- Settles O5: each word is the encoding of the command it stands for. -/
theorem specWordsDecode : Obligations.SpecWordsDecode :=
  ⟨decodeOfEncodeIsTheCommand .nop, decodeOfEncodeIsTheCommand .reset,
    decodeOfEncodeIsTheCommand (.wrcfg 0x0#4 8000#24), decodeOfEncodeIsTheCommand (.rdreg 0xF#4),
    decodeOfEncodeIsTheCommand .start, decodeOfEncodeIsTheCommand .stop,
    decodeOfEncodeIsTheCommand (.demod 0x8000#16), decodeOfEncodeIsTheCommand (.modbyte 0x41#8),
    decodeOfEncodeIsTheCommand .modpost⟩

/-- Two adjacent fields below `OP` are the bits below `OP`. -/
theorem lowBits_eq_append {w : Word} {m n : Nat} {a : BitVec m} {b : BitVec n} (ha : w.extractLsb' n m = a)
    (hb : w.extractLsb' 0 n = b) : w.extractLsb' 0 (m + n) = a ++ b := by
  rw [← ha, ← hb, BitVec.extractLsb'_append_extractLsb'_eq_extractLsb' (Nat.zero_add n).symm]

/-- Format N (R80). -/
theorem formatN_of_fields {w : Word} {op : BitVec 4} (hop : opField w = op)
    (hz : w.extractLsb' 0 28 = 0#28) : op ++ 0#28 = w :=
  (word_eq_fields hop hz).symm

/-- Format RV (R80). -/
theorem encode_wrcfg_of_fields {w : Word} (hop : opField w = 0x2#4) :
    encode (.wrcfg (regField w) (valueField w)) = w :=
  (word_eq_fields hop (lowBits_eq_append (m := 4) (n := 24) rfl rfl)).symm

/-- Format R (R80). -/
theorem encode_rdreg_of_fields {w : Word} (hop : opField w = 0x3#4) (hz : w.extractLsb' 0 24 = 0#24) :
    encode (.rdreg (regField w)) = w :=
  (word_eq_fields hop (lowBits_eq_append rfl hz)).symm

/-- Format S (R80). -/
theorem encode_demod_of_fields {w : Word} (hop : opField w = 0x6#4) (hz : w.extractLsb' 16 12 = 0#12) :
    encode (.demod (sampleField w)) = w :=
  (word_eq_fields hop (lowBits_eq_append hz rfl)).symm

/-- Format B (R80). -/
theorem encode_modbyte_of_fields {w : Word} (hop : opField w = 0x7#4) (hz : w.extractLsb' 8 20 = 0#20) :
    encode (.modbyte (byteField w)) = w :=
  (word_eq_fields hop (lowBits_eq_append hz rfl)).symm

/-- Settles O2: the word's opcode selects the format, and the reserved bits have been found 0. -/
theorem encodeOfDecodeIsTheWord : Obligations.EncodeOfDecodeIsTheWord := by
  intro w i h
  unfold decode at h
  split at h
  case h_1 hop | h_2 hop | h_5 hop | h_6 hop | h_9 hop => -- format N
    obtain ⟨hz, rfl⟩ := ifReservedZero_eq_ok.mp h
    exact formatN_of_fields (BitVec.eq_of_toNat_eq hop) hz
  case h_3 hop =>
    cases h
    exact encode_wrcfg_of_fields (BitVec.eq_of_toNat_eq hop)
  case h_4 hop =>
    obtain ⟨hz, rfl⟩ := ifReservedZero_eq_ok.mp h
    exact encode_rdreg_of_fields (BitVec.eq_of_toNat_eq hop) hz
  case h_7 hop =>
    obtain ⟨hz, rfl⟩ := ifReservedZero_eq_ok.mp h
    exact encode_demod_of_fields (BitVec.eq_of_toNat_eq hop) hz
  case h_8 hop =>
    obtain ⟨hz, rfl⟩ := ifReservedZero_eq_ok.mp h
    exact encode_modbyte_of_fields (BitVec.eq_of_toNat_eq hop) hz
  case h_10 => cases h

end Sys2Proof
end

section
/-!
The match and mask table (R82 to R84): a row fixes the fields its mask covers, among them `OP`, so a word
matches a row exactly when it is the word of a command, and no two rows match one word.
-/
namespace Sys2Proof

/-- A field all of whose bits are in the mask has the pattern's value. -/
theorem field_of_masked {w mask pattern : Word} (h : w &&& mask = pattern) {lo n : Nat} {f : BitVec n}
    (hm : mask.extractLsb' lo n = BitVec.allOnes n) (hf : pattern.extractLsb' lo n = f) :
    w.extractLsb' lo n = f := by
  rw [← hf, ← h, BitVec.extractLsb'_and, hm, BitVec.and_allOnes]

/-- Under a full mask only the pattern itself matches. -/
theorem pattern_of_full_mask {w pattern : Word} (h : w &&& 0xFFFFFFFF#32 = pattern) : pattern = w :=
  h.symm.trans (BitVec.and_allOnes (x := w))

theorem opField_mask : ∀ r ∈ opcodeRows, opField r.mask = BitVec.allOnes 4 := by decide

theorem opField_pattern_lt : ∀ r ∈ opcodeRows, (opField r.pattern).toNat < 9 := by decide

theorem row_eq_of_opField : ∀ r₁ ∈ opcodeRows, ∀ r₂ ∈ opcodeRows,
    opField r₁.pattern = opField r₂.pattern → r₁ = r₂ := by decide

/-- A word has the opcode of a row it matches. -/
theorem opField_of_row {r : OpcodeRow} {w : Word} (hr : r ∈ opcodeRows) (hw : w &&& r.mask = r.pattern) :
    opField w = opField r.pattern :=
  field_of_masked hw (opField_mask r hr) rfl

/-- Settles O3: both rows have the word's opcode, and no two rows have the same one. -/
theorem noTwoRowsMatchOneWord : Obligations.NoTwoRowsMatchOneWord :=
  fun _ r₁ r₂ h₁ h₂ hw₁ hw₂ =>
    row_eq_of_opField r₁ h₁ r₂ h₂ ((opField_of_row h₁ hw₁).symm.trans (opField_of_row h₂ hw₂))

/-- Every command has a row that matches its word, and operands in range (R82, R96). -/
theorem rowOfCommand (i : Instr) : Laws.RowOfCommand.Statement i := by
  cases i with
  | nop => exact Laws.RowOfCommand.nop
  | reset => exact Laws.RowOfCommand.reset
  | wrcfg r v => exact Laws.RowOfCommand.wrcfg r v
  | rdreg r => exact Laws.RowOfCommand.rdreg r
  | start => exact Laws.RowOfCommand.start
  | stop => exact Laws.RowOfCommand.stop
  | demod x => exact Laws.RowOfCommand.demod x
  | modbyte b => exact Laws.RowOfCommand.modbyte b
  | modpost => exact Laws.RowOfCommand.modpost

/-- A word that matches a row is the word of a command (R82). -/
theorem exists_encode_of_row {r : OpcodeRow} {w : Word} (hr : r ∈ opcodeRows) (hw : w &&& r.mask = r.pattern) :
    ∃ i, encode i = w := by
  simp only [opcodeRows, List.mem_cons, List.not_mem_nil, or_false] at hr
  obtain rfl | rfl | rfl | rfl | rfl | rfl | rfl | rfl | rfl := hr
  · exact ⟨.nop, pattern_of_full_mask hw⟩
  · exact ⟨.reset, pattern_of_full_mask hw⟩
  · exact ⟨_, encode_wrcfg_of_fields (field_of_masked hw rfl rfl)⟩
  · exact ⟨_, encode_rdreg_of_fields (field_of_masked hw rfl rfl) (field_of_masked hw rfl rfl)⟩
  · exact ⟨.start, pattern_of_full_mask hw⟩
  · exact ⟨.stop, pattern_of_full_mask hw⟩
  · exact ⟨_, encode_demod_of_fields (field_of_masked hw rfl rfl) (field_of_masked hw rfl rfl)⟩
  · exact ⟨_, encode_modbyte_of_fields (field_of_masked hw rfl rfl) (field_of_masked hw rfl rfl)⟩
  · exact ⟨.modpost, pattern_of_full_mask hw⟩

/-- Settles O4: a word that decodes is its command's word, which has a row; a word with a row decodes. -/
theorem everyWordIsARowOrRaisesIllegalOp : Obligations.EveryWordIsARowOrRaisesIllegalOp := by
  intro w s
  refine ⟨?rows, fun h9 r hr hw => ?undefined⟩
  case rows =>
    cases hd : decode w with
    | ok i =>
      obtain ⟨⟨r, hr, hmnemonic, hw⟩, -⟩ := rowOfCommand i
      rw [encodeOfDecodeIsTheWord w i hd] at hw
      exact .inl ⟨i, r, hr, hmnemonic, hw, rfl, Machine.runWord_of_ok hd s⟩
    | error e =>
      refine .inr ⟨fun r hr hw => ?_, Machine.runWord_of_error hd s⟩
      obtain ⟨i, rfl⟩ := exists_encode_of_row hr hw
      cases hd.symm.trans (decodeOfEncodeIsTheCommand i)
  case undefined =>
    rw [← opField, opField_of_row hr hw] at h9
    exact absurd (opField_pattern_lt r hr) (not_lt.mpr h9)

end Sys2Proof
end

section
/-!
Event words (R86 to R91): the host reads an event's fields back from its word.
-/
namespace Sys2Proof.Machine

theorem eventTag_append (tag : BitVec 4) (b : BitVec 28) : eventTag (tag ++ b) = tag :=
  BitVec.extractLsb'_append_eq_left

/-- The host reads every event back from its word: the tag selects the layout, and its zero fields are 0. -/
theorem eventOfWord_eventWord (e : Event) : eventOfWord (eventWord e) = some e := by
  cases e with
  | sample x =>
    have htag : eventTag (eventWord (.sample x)) = 0x1#4 := eventTag_append _ _
    have hz : (eventWord (.sample x)).extractLsb' 16 12 = 0#12 := extractLsb'_append_middle _ _ _
    have hx : (eventWord (.sample x)).extractLsb' 0 16 = x := extractLsb'_append_last _ _ _
    simp [eventOfWord, ifFieldZero, htag, hz, hx]
  | byte b =>
    have htag : eventTag (eventWord (.byte b)) = 0x2#4 := eventTag_append _ _
    have hz : (eventWord (.byte b)).extractLsb' 8 20 = 0#20 := extractLsb'_append_middle _ _ _
    have hb : (eventWord (.byte b)).extractLsb' 0 8 = b := extractLsb'_append_last _ _ _
    simp [eventOfWord, ifFieldZero, htag, hz, hb]
  | discard b =>
    have htag : eventTag (eventWord (.discard b)) = 0x3#4 := eventTag_append _ _
    have hz : (eventWord (.discard b)).extractLsb' 8 20 = 0#20 := extractLsb'_append_middle _ _ _
    have hb : (eventWord (.discard b)).extractLsb' 0 8 = b := extractLsb'_append_last _ _ _
    simp [eventOfWord, ifFieldZero, htag, hz, hb]
  | regval r v =>
    have htag : eventTag (eventWord (.regval r v)) = 0x4#4 := eventTag_append _ _
    have hr : (eventWord (.regval r v)).extractLsb' 24 4 = r := extractLsb'_append_middle _ _ _
    have hv : (eventWord (.regval r v)).extractLsb' 0 24 = v := extractLsb'_append_last _ _ _
    simp [eventOfWord, htag, hr, hv]
  | error c t =>
    have htag : eventTag (eventWord (.error c t)) = 0xE#4 := eventTag_append _ _
    have hc : (eventWord (.error c t)).extractLsb' 24 4 = c := extractLsb'_append_middle _ _ _
    have hz : (eventWord (.error c t)).extractLsb' 8 16 = 0#16 :=
      (BitVec.extractLsb'_append_eq_of_add_le (by decide)).trans (extractLsb'_append_middle c 0#16 t)
    have ht : (eventWord (.error c t)).extractLsb' 0 8 = t :=
      (BitVec.extractLsb'_append_eq_of_add_le (by decide)).trans (extractLsb'_append_last c 0#16 t)
    simp [eventOfWord, ifFieldZero, htag, hc, hz, ht]

/-- Settles O6: the layouts are the definition of `eventWord`, and its words read back. -/
theorem eventWordsReadBack : Obligations.EventWordsReadBack :=
  ⟨eventOfWord_eventWord, fun _ => rfl, fun _ => rfl, fun _ => rfl, fun _ _ => rfl, fun _ _ => rfl⟩

end Sys2Proof.Machine
end

section
/-!
The mode gate (R81, R262, R263).
-/
namespace Sys2Proof.Machine

/-- Settles O28: each of the six commands is behind the gate of the other mode. -/
theorem wrongModeRaisesBadMode : Obligations.WrongModeRaisesBadMode := by
  rintro s i (⟨hm, h⟩ | ⟨hm, h⟩)
  · have hne : s.mode ≠ .config := by simp [hm]
    obtain rfl | ⟨r, v, rfl⟩ := h <;> exact requireMode_other hne
  · have hne : s.mode ≠ .run := by simp [hm]
    obtain rfl | rfl | ⟨x, rfl⟩ | ⟨b, rfl⟩ := h <;> exact requireMode_other hne

end Sys2Proof.Machine
end

section
/-!
The assembler's range check (R96): an operand in its range is the value of the field that is cut for it.
-/
namespace Sys2Proof.Machine

/-- An unsigned operand that fits its field is the field's value. -/
theorem toNat_ofInt_of_range {n : Nat} {v : Int} (h0 : 0 ≤ v) (h : v < 2 ^ n) :
    ((BitVec.ofInt n v).toNat : Int) = v := by
  rw [BitVec.toNat_ofInt, Int.emod_eq_of_lt h0 (by exact_mod_cast h), Int.toNat_of_nonneg h0]

theorem ofInt_toNat {n : Nat} (x : BitVec n) : BitVec.ofInt n x.toNat = x := by
  rw [BitVec.ofInt_natCast, BitVec.ofNat_toNat, BitVec.setWidth_eq]

theorem toNat_ofInt_reg {r : Int} (h : AsmCommand.regInRange r = true) : ((BitVec.ofInt 4 r).toNat : Int) = r := by
  simp only [AsmCommand.regInRange, Bool.and_eq_true, decide_eq_true_eq] at h
  exact toNat_ofInt_of_range h.1 (by omega)

theorem toNat_ofInt_value {v : Int} (h : AsmCommand.valueInRange v = true) :
    ((BitVec.ofInt 24 v).toNat : Int) = v := by
  simp only [AsmCommand.valueInRange, Bool.and_eq_true, decide_eq_true_eq] at h
  exact toNat_ofInt_of_range h.1 (by omega)

theorem toNat_ofInt_byte {b : Int} (h : AsmCommand.byteInRange b = true) : ((BitVec.ofInt 8 b).toNat : Int) = b := by
  simp only [AsmCommand.byteInRange, Bool.and_eq_true, decide_eq_true_eq] at h
  exact toNat_ofInt_of_range h.1 (by omega)

theorem toInt_ofInt_sample {x : Int} (h : AsmCommand.sampleInRange x = true) : (BitVec.ofInt 16 x).toInt = x := by
  simp only [AsmCommand.sampleInRange, Bool.and_eq_true, decide_eq_true_eq] at h
  exact BitVec.toInt_ofInt_eq_self (by decide) (by omega) (by omega)

/-- A command as written assembles to itself: its operands are in range, and each is cut to its field. -/
theorem assemble_toAsm (i : Instr) : assemble i.toAsm = some i := by
  have hw : i.toAsm.wellFormed = true := (rowOfCommand i).2
  unfold assemble
  rw [if_pos hw]
  cases i with
  | nop | reset | start | stop | modpost => rfl
  | wrcfg r v => simp only [Instr.toAsm, ofInt_toNat]
  | rdreg r => simp only [Instr.toAsm, ofInt_toNat]
  | demod x => simp only [Instr.toAsm, BitVec.ofInt_toInt]
  | modbyte b => simp only [Instr.toAsm, ofInt_toNat]

/-- An operand out of its range is refused. -/
theorem assemble_eq_none {a : AsmCommand} (h : a.wellFormed = false) : assemble a = none :=
  if_neg (by simp [h])

/-- A command assembles only when its operands are in range. -/
theorem wellFormed_of_assemble {a : AsmCommand} {i : Instr} (h : assemble a = some i) : a.wellFormed = true := by
  by_contra hw
  rw [assemble_eq_none (by simpa using hw)] at h
  cases h

/-- What assembles is the command as written: no operand is truncated. -/
theorem toAsm_of_assemble {a : AsmCommand} {i : Instr} (h : assemble a = some i) : i.toAsm = a := by
  have hw := wellFormed_of_assemble h
  unfold assemble at h
  rw [if_pos hw] at h
  cases a with
  | nop | reset | start | stop | modpost => cases h; rfl
  | wrcfg r v =>
    obtain ⟨hr, hv⟩ := (Bool.and_eq_true _ _).mp hw
    cases h
    rw [Instr.toAsm, toNat_ofInt_reg hr, toNat_ofInt_value hv]
  | rdreg r => cases h; rw [Instr.toAsm, toNat_ofInt_reg hw]
  | demod x => cases h; rw [Instr.toAsm, toInt_ofInt_sample hw]
  | modbyte b => cases h; rw [Instr.toAsm, toNat_ofInt_byte hw]

/-- Settles O57: the three clauses are the three lemmas above. -/
theorem assemblerRefusesOutOfRangeOperands : Obligations.AssemblerRefusesOutOfRangeOperands :=
  ⟨assemble_toAsm, fun _ => assemble_eq_none, fun _ _ => toAsm_of_assemble⟩

end Sys2Proof.Machine
end

section
/-!
NOP, RESET and STOP (R120, R121, R136).
-/
namespace Sys2Proof.Machine

/-- A word of format N with any of bits 27:0 set raises ILLEGAL_OP, whatever its command (R80, R83). -/
theorem runWord_of_formatN_reserved {w : Word} (hop : opField w ∈ [0#4, 1#4, 4#4, 5#4, 8#4])
    (hz : w.extractLsb' 0 28 ≠ 0#28) (s : State) : runWord w s = .next (raiseError .illegalOp w s) := by
  refine runWord_of_error (e := .reservedBits) ?_ s
  simp only [List.mem_cons, List.not_mem_nil, or_false] at hop
  obtain hop | hop | hop | hop | hop := hop <;> simp [decode, hop, ifReservedZero, hz]

/-- Settles O14: NOP's meaning is the identity, and its word decodes to it. -/
theorem nopHasNoEffect : Obligations.NopHasNoEffect := by
  intro s
  refine ⟨rfl, runWord_of_ok (decodeOfEncodeIsTheCommand .nop) s, fun w hop hz => ?reserved⟩
  exact runWord_of_formatN_reserved (by simp [opField, hop]) hz s

/-- Settles O15: the values written out are those of `resetBlock`, whose constants are free. -/
theorem resetSetsEveryElementButOut : Obligations.ResetSetsEveryElementButOut := by
  intro s
  refine ⟨⟨unspecifiedDerived s.freeCount, rfl⟩, fun w hop hz => ?reserved⟩
  exact runWord_of_formatN_reserved (by simp [opField, hop]) hz s

/-- Settles O27: in RUN the gate lets STOP through, in CONFIG it raises BAD_MODE. -/
theorem stopLeavesTheSession : Obligations.StopLeavesTheSession := by
  intro s
  refine ⟨fun hm => requireMode_same hm, fun hm => requireMode_other hm, fun w hop hz => ?reserved⟩
  exact runWord_of_formatN_reserved (by simp [opField, hop]) hz s

end Sys2Proof.Machine
end

section
/-!
WRCFG and RDREG (R122 to R124): what a register reads after a write to it and to another, and the two
commands by mode and register number.
-/
namespace Sys2Proof.Machine

/-- A register reads the value last written to it, CTRL its legal bits (R122, R123). -/
theorem readReg_writeReg_same {r : RegNo} (hr : r.toNat < 0xD) (v : RegVal) (s : State) :
    readReg (setCfg (writeReg s.cfg r v) s) r = if r = 0x8#4 then ctrlKept v else v := by
  obtain ⟨⟨n, hn⟩⟩ := r
  change n < 0xD at hr
  interval_cases n <;> rfl

/-- A write leaves every other register as it was (R122). -/
theorem readReg_writeReg_other {r r' : RegNo} (h : r' ≠ r) (v : RegVal) (s : State) :
    readReg (setCfg (writeReg s.cfg r v) s) r' = readReg s r' := by
  have hn : r'.toNat ≠ r.toNat := fun he => h (BitVec.eq_of_toNat_eq he)
  unfold writeReg
  split <;> unfold readReg <;> split <;> try rfl
  all_goals omega -- the fields a write does change: there `r'` would be `r`

/-- In CONFIG WRCFG of a writable register writes it (R122). -/
theorem exec_wrcfg_writable {s : State} {r : RegNo} (hm : s.mode = .config) (hr : r.toNat < 0xD) (v : RegVal) :
    exec (.wrcfg r v) s = .next (setCfg (writeReg s.cfg r v) s) :=
  (requireMode_same hm).trans (if_neg (Nat.not_le.mpr hr))

/-- In CONFIG WRCFG of a read-only register raises BAD_REG (R122). -/
theorem exec_wrcfg_readOnly {s : State} {r : RegNo} (hm : s.mode = .config) (hr : 0xD ≤ r.toNat) (v : RegVal) :
    exec (.wrcfg r v) s = .next (raiseError .badReg (encode (.wrcfg r v)) s) :=
  (requireMode_same hm).trans (if_pos hr)

/-- Bits 31:24 of a WRCFG word are its opcode and its register number (R80). -/
theorem topByte_encode_wrcfg (r : RegNo) (v : RegVal) : topByte (encode (.wrcfg r v)) = 0x2#4 ++ r := by
  have h : encode (.wrcfg r v) = (0x2#4 ++ r) ++ v := (BitVec.append_assoc (x₁ := 0x2#4)).symm
  rw [topByte, h, BitVec.extractLsb'_append_eq_left]

/-- Settles O17: the gate, the read-only numbers, and the write with the two reads after it. -/
theorem wrcfgWritesItsRegisterOnly : Obligations.WrcfgWritesItsRegisterOnly := by
  intro s r v
  rw [← topByte_encode_wrcfg r v]
  refine ⟨fun hm => requireMode_other hm, fun hm hr => exec_wrcfg_readOnly hm hr v, fun hm hr => ?writable⟩
  exact ⟨writeReg s.cfg r v, exec_wrcfg_writable hm hr v, readReg_writeReg_same hr v s,
    fun r' hne => readReg_writeReg_other hne v s⟩

/-- The REGVAL word of CTRL is its tag and number over three bits (R29, R90). -/
theorem regvalWord_ctrl (b : BitVec 3) :
    0x4#4 ++ (0x8#4 ++ b.zeroExtend 24) = 0x48000000#32 ||| b.zeroExtend 32 := by
  revert b
  decide

/-- Settles O18: the write keeps bits 2:0, and the read emits them. -/
theorem ctrlReadsBackItsLegalBits : Obligations.CtrlReadsBackItsLegalBits := by
  intro s v hm
  refine ⟨writeReg s.cfg 0x8#4 v, exec_wrcfg_writable hm (by decide) v, ?_⟩
  rw [← regvalWord_ctrl]
  rfl

/-- Settles O19: RDREG emits what `readReg` answers, which is the table of the statement. -/
theorem rdregReportsTheRegister : Obligations.RdregReportsTheRegister := fun _ _ => rfl

/-- Settles O32: every effect but a write in CONFIG and the reset keeps the configuration. -/
theorem configurationIsFixedInASession : Obligations.ConfigurationIsFixedInASession := by
  intro i s t h hne
  cases exec_effect h with
  | reset => exact .inl rfl
  | write r v hm => exact .inr ⟨hm, r, v, rfl⟩
  | nop | read | session | stop | sample | byte | postamble | error => simp at hne

end Sys2Proof.Machine
end

section
/-!
START (R125 to R135): the checks in the integers of R126, and what a session that passes them begins with.
-/
namespace Sys2Proof.Machine

theorem numLit_one : numLit 1 = numOne := rfl

/-- V1 to V8 (R126). -/
theorem legalConfig_iff (c : ConfigRegs) : legalConfig c = true ↔
    1 ≤ c.baud.toNat ∧ 2 * c.baud.toNat ≤ c.fs.toNat ∧ c.poles.toNat ∈ [2, 4, 6, 8] ∧
    (1 ≤ c.fmark.toNat ∧ 2 * c.fmark.toNat < c.fs.toNat) ∧
    (1 ≤ c.fspace.toNat ∧ 2 * c.fspace.toNat < c.fs.toNat) ∧ c.fmark ≠ c.fspace ∧
    (1 ≤ c.fcorner.toNat ∧ 2 * c.fcorner.toNat < c.fs.toNat) ∧
    c.thrlo.toNat < 0x008000 ∧ 0x008000 < c.thrhi.toNat := by
  simp [legalConfig, and_assoc, or_assoc]

/-- V1 to V8, and V9 (R126). -/
theorem configAccepted_iff (N : Numerics) (c : ConfigRegs) (k : Nat) :
    configAccepted N c k = true ↔ legalConfig c = true ∧ numLt (oppositeGain N c k) numOne = true := by
  rw [configAccepted, numLit_one, Bool.and_eq_true]

/-- START in CONFIG begins a session when the checks pass (R125). -/
theorem exec_start_accepted {s : State} (hm : s.mode = .config)
    (ha : configAccepted s.numerics s.cfg s.freeCount = true) :
    exec .start s = .next (startSession (deriveConstants s.numerics s.cfg s.freeCount) s) :=
  (requireMode_same hm).trans (if_pos ha)

/-- START in CONFIG raises CONFIG_INVALID when a check fails (R126). -/
theorem exec_start_rejected {s : State} (hm : s.mode = .config)
    (ha : ¬ configAccepted s.numerics s.cfg s.freeCount = true) :
    exec .start s = .next (raiseError .configInvalid (encode .start) s) :=
  (requireMode_same hm).trans (if_neg ha)

/-- Settles O21: the statement's condition is the model's test, and START follows the test. -/
theorem startMakesEveryLegalityCheck : Obligations.StartMakesEveryLegalityCheck := by
  intro s legal hm hlegal
  have htest : legal ↔ configAccepted s.numerics s.cfg s.freeCount = true := by
    rw [hlegal, configAccepted_iff, legalConfig_iff]
    simp only [and_assoc]
  rw [htest]
  exact ⟨fun ha => ⟨_, exec_start_accepted hm ha, rfl, rfl⟩, exec_start_rejected hm⟩

/-- Settles O22: the values written out are those of `startSession`. -/
theorem startBeginsASession : Obligations.StartBeginsASession :=
  fun _ hm ha => ⟨_, exec_start_accepted hm ha⟩

/-- Settles O23: each constant is a field of `deriveConstants`; V1 and V2 bound the bit period. -/
theorem startLatchesScalarConstants : Obligations.StartLatchesScalarConstants := by
  intro s hm ha
  have hperiod : 2 ≤ bitPeriodInt s.cfg := two_le_bitPeriodInt ha
  have hhalf : 1 ≤ bitPeriodInt s.cfg / 2 := Nat.div_pos hperiod (by decide)
  exact ⟨_, exec_start_accepted hm ha, rfl, rfl, rfl, rfl, rfl, rfl, rfl, rfl, rfl, rfl, rfl, rfl, rfl,
    hperiod, hhalf, rfl, rfl, rfl, rfl⟩

theorem designCoef_getElem (N : Numerics) (p nst : Nat) (fcN fsN : NumVal) (k : Nat) (i : Fin 4) :
    (designCoef N p nst fcN fsN k)[i] = coefEntry N p nst fcN fsN k i := by
  fin_cases i <;> rfl

/-- A stage below `NST` is the designed one, not a free value (R133). -/
theorem coefOf_getElem_of_lt (N : Numerics) (c : ConfigRegs) (k : Nat) {i : Fin 4}
    (hi : i.val < c.poles.toNat / 2) :
    (coefOf N c k)[i] = designStage N c.poles.toNat (regNum N c.fcorner) (regNum N c.fs) i := by
  rw [coefOf, designCoef_getElem, coefEntry, if_pos hi]

/-- Settles O24: a stage below `NST` is `designStage`, whose evaluation order is the statement's. -/
theorem startDesignsTheFilter : Obligations.StartDesignsTheFilter := by
  intro s hm ha
  refine ⟨_, exec_start_accepted hm ha, rfl, ?stages⟩
  rintro i hi _ rfl wc ang pr im d qr qi g rfl rfl rfl rfl rfl rfl rfl rfl
  simp only [startSession_derived, deriveConstants, coefOf_getElem_of_lt s.numerics s.cfg s.freeCount hi]
  exact ⟨rfl, rfl, rfl, rfl, rfl⟩

/-- Settles O25: the rotors are `rotorOf` of the mark, the space and their midpoint. -/
theorem startDerivesRotors : Obligations.StartDerivesRotors := by
  intro s hm ha
  refine ⟨_, exec_start_accepted hm ha, ?_⟩
  rintro _ a b c rfl rfl rfl rfl
  exact ⟨rfl, rfl, rfl⟩

/-- The loop variable of `HLP2` after the first `j` stages (R156). -/
def cascadeResponse (N : Numerics) (coef : Vector Biquad Config.nstMax) (w : NumVal) (j : Nat) : Cplx :=
  let e1 : Cplx := ⟨N.cos w, N.neg (N.sin w)⟩
  (stageIndices j).foldl (fun h i => responseStage N e1 (cmul N e1 e1) h coef[i]) ⟨numOne, numZero⟩

/-- `HLP2` is the squared magnitude of the loop variable after all stages (R156). -/
theorem lowPassPower_eq (N : Numerics) (coef : Vector Biquad Config.nstMax) (nst : Nat) (w : NumVal) :
    lowPassPower N coef nst w = abs2 N (cascadeResponse N coef w nst) := rfl

theorem stageIndices_succ : ∀ j : Fin Config.nstMax, stageIndices (j + 1) = stageIndices j ++ [j] := by decide

/-- One turn of the loop of `HLP2` (R156). -/
theorem cascadeResponse_succ (N : Numerics) (coef : Vector Biquad Config.nstMax) (w : NumVal) {j : Nat}
    (hj : j < Config.nstMax) :
    cascadeResponse N coef w (j + 1) =
      responseStage N ⟨N.cos w, N.neg (N.sin w)⟩
        (cmul N ⟨N.cos w, N.neg (N.sin w)⟩ ⟨N.cos w, N.neg (N.sin w)⟩) (cascadeResponse N coef w j) coef[j] := by
  unfold cascadeResponse
  rw [stageIndices_succ ⟨j, hj⟩, List.foldl_append]
  rfl

/-- Settles O26: the loop variable at the tone offset; V9 bounds its squared magnitude. -/
theorem startDerivesTheGainConstant : Obligations.StartDerivesTheGainConstant := by
  intro s hm ha
  refine ⟨_, exec_start_accepted hm ha,
    cascadeResponse s.numerics (coefOf s.numerics s.cfg s.freeCount) (toneOffset s.numerics s.cfg), rfl, ?_⟩
  rintro _ w r2 e1 e2 rfl rfl rfl rfl
  refine ⟨?loop, ?gain⟩
  case loop =>
    rintro j hj - num den rfl rfl
    exact cascadeResponse_succ _ _ _ hj
  case gain =>
    rintro rfl
    exact ⟨rfl, ((configAccepted_iff _ _ _).mp ha).2⟩

end Sys2Proof.Machine
end

section
/-!
The conversion of an integer in the reference number format (R5, R127).
-/
namespace Sys2Proof.Machine

/-- A natural number of up to 53 bits is not rounded. -/
theorem round64_of_lt (neg : Bool) {m : Nat} (h : m < 2 ^ 53) : round64 neg m 0 = normNum neg m 0 := by
  by_cases hm : m = 0
  · simp [round64, normNum, hm]
  · have hlog : Nat.log2 m < 53 := (Nat.log2_lt hm).mpr h
    have hexp : max ((0 : Int) + (Nat.log2 m : Int) - 52) (-1074) ≤ 0 := by omega
    have hfinite : ¬ (Nat.log2 m : Int) + 0 ≥ 1024 := by omega
    simp only [round64, clip64, if_neg hm, if_pos hexp, if_neg hfinite]

/-- An integer of up to 53 bits converts to itself. -/
theorem ofInt64_of_lt {i : Int} (h : i.natAbs < 2 ^ 53) : ofInt64 i = numLit i := round64_of_lt _ h

/-- Settles O55: a register value has 24 bits. -/
theorem registerValuesAreExactInBinary64 : Obligations.RegisterValuesAreExactInBinary64 :=
  fun v => ofInt64_of_lt (v.isLt.trans (by decide))

end Sys2Proof.Machine
end

section
/-!
FSTEP (R157): the loop variable and the memory after each stage of the cascade.
-/
namespace Sys2Proof.Machine

variable (N : Numerics) (d : Derived) (mem : FilterMem) (adv : Cplx) (x : NumVal)

theorem filterStage_cells_same (ym : Cplx × FilterMem) {i : Nat} (hi : i < Config.nstMax) :
    (filterStage N d adv ym ⟨i, hi⟩).2[i] = (stageStep N d.coef[i] adv ym.2[i] ym.1).2 :=
  Vector.getElem_set_self hi

theorem filterStage_cells_other (ym : Cplx × FilterMem) {i j : Nat} (hi : i < Config.nstMax)
    (hj : j < Config.nstMax) (hne : j ≠ i) : (filterStage N d adv ym ⟨j, hj⟩).2[i] = ym.2[i] :=
  Vector.getElem_set_ne hj hi hne

/-- The running output and the memory of `FSTEP` after the first `j` stages (R157). -/
def cascadeStep (j : Nat) : Cplx × FilterMem :=
  (stageIndices j).foldl (filterStage N d adv) (⟨x, numZero⟩, mem)

theorem filterStep_eq_cascadeStep : filterStep N d mem adv x = cascadeStep N d mem adv x d.nst := rfl

/-- One turn of the loop of `FSTEP` (R157). -/
theorem cascadeStep_succ {j : Nat} (hj : j < Config.nstMax) :
    cascadeStep N d mem adv x (j + 1) = filterStage N d adv (cascadeStep N d mem adv x j) ⟨j, hj⟩ := by
  unfold cascadeStep
  rw [stageIndices_succ ⟨j, hj⟩, List.foldl_append]
  rfl

/-- The cells of the stages from `j` on are as before. -/
theorem cascadeStep_cells_of_le {i j : Nat} (hi : i < Config.nstMax) (hji : j ≤ i) :
    (cascadeStep N d mem adv x j).2[i] = mem[i] := by
  induction j with
  | zero => rfl
  | succ j ih =>
    rw [cascadeStep_succ N d mem adv x (by omega), filterStage_cells_other N d adv _ hi _ (by omega)]
    exact ih (by omega)

/-- A turn reads its own stage's old cells, and its output is the next turn's input. -/
theorem cascadeStep_succ_output {i : Nat} (hi : i < Config.nstMax) :
    (cascadeStep N d mem adv x (i + 1)).1 =
      (stageStep N d.coef[i] adv mem[i] (cascadeStep N d mem adv x i).1).1 := by
  rw [cascadeStep_succ N d mem adv x hi, ← cascadeStep_cells_of_le N d mem adv x hi le_rfl]
  rfl

/-- The cells of a stage below `j` are those its own turn left; no later turn writes them. -/
theorem cascadeStep_cells_of_lt {i j : Nat} (hij : i < j) (hj : j ≤ Config.nstMax) :
    (cascadeStep N d mem adv x j).2[i] =
      (stageStep N d.coef[i] adv mem[i] (cascadeStep N d mem adv x i).1).2 := by
  induction j, hij using Nat.le_induction with
  | base =>
    rw [cascadeStep_succ N d mem adv x hj, filterStage_cells_same, cascadeStep_cells_of_le N d mem adv x hj le_rfl]
  | succ j hij ih =>
    rw [cascadeStep_succ N d mem adv x hj, filterStage_cells_other N d adv _ _ hj (by omega)]
    exact ih (by omega)

end Sys2Proof.Machine

namespace Sys2Proof.Machine

/-- Settles O38: the stages' inputs are the running outputs of the cascade. -/
theorem filterStepRunsTheCascade : Obligations.FilterStepRunsTheCascade := by
  intro N d mem adv x hnst
  rw [filterStep_eq_cascadeStep]
  refine ⟨fun j => (cascadeStep N d mem adv x j).1, rfl, rfl, fun i hi => ⟨?used, ?unused⟩⟩
  case used =>
    rintro hlt _ rfl
    exact ⟨cascadeStep_succ_output N d mem adv x hi, cascadeStep_cells_of_lt N d mem adv x hlt hnst⟩
  case unused => exact cascadeStep_cells_of_le N d mem adv x hi

end Sys2Proof.Machine
end

section
/-!
DEMOD in RUN (R160): the decode path on one sample, and the branch memories it clocks.
-/
namespace Sys2Proof.Machine

theorem exec_demod_run {s : State} (hm : s.mode = .run) (x : Sample) :
    exec (.demod x) s = .next (emitAll (demodStep s.numerics s.derived x s.demod).2
      (setDemod (demodStep s.numerics s.derived x s.demod).1 s)) :=
  requireMode_same hm

/-- The slicer's two comparisons as propositions (R200). -/
theorem slice_eq_ite (lo hi : NumVal) (b : Bool) (v : NumVal) :
    slice lo hi b v =
      if b = true ∧ numLt v lo = true then false else if b = false ∧ numLt hi v = true then true else b := by
  simp [slice]

/-- One sample is one framer step: the discriminator keeps `SYM`, so the slicer reads the old one (R160). -/
theorem demodStep_eq_framerStep (N : Numerics) (d : Derived) (x : Sample) (q : Demod) :
    demodStep N d x q = framerStep N d { (discriminate N d (scaledSample N x) q).2 with
      psym := q.sym
      sym := slice d.loN d.hiN q.sym (discriminate N d (scaledSample N x) q).1 } := by
  rw [demodStep, sliceStep, (discriminate_frame N d (scaledSample N x) q).1]

/-- Settles O36: the symbol is the slicer's, and the framer keeps both symbols. -/
theorem demodTakesOneSample : Obligations.DemodTakesOneSample := by
  intro s x v u sym hm hdisc hsym
  obtain ⟨rfl, rfl⟩ := Prod.ext_iff.mp hdisc
  rw [← slice_eq_ite] at hsym
  subst hsym
  have hexec := exec_demod_run hm x
  rw [demodStep_eq_framerStep] at hexec
  obtain ⟨-, -, -, hsym, hpsym⟩ := framerStep_frame s.numerics s.derived _
  exact ⟨_, _, hexec, rfl, framerStep_events _ _ _, hpsym, hsym⟩

/-- The slicer and the framer keep the branch memories and `FM_PREV` as the discriminator leaves them. -/
theorem demodStep_memories (N : Numerics) (d : Derived) (x : Sample) (q : Demod) :
    (demodStep N d x q).1.fmemM = (discriminate N d (scaledSample N x) q).2.fmemM ∧
    (demodStep N d x q).1.fmemS = (discriminate N d (scaledSample N x) q).2.fmemS ∧
    (demodStep N d x q).1.fmPrev = (discriminate N d (scaledSample N x) q).2.fmPrev := by
  obtain ⟨hM, hS, hP, -, -⟩ := framerStep_frame N d (sliceStep d (discriminate N d (scaledSample N x) q).1
    (discriminate N d (scaledSample N x) q).2)
  exact ⟨hM, hS, hP⟩

/-- Settles O37: the memories are the discriminator's, and it runs the latched strategy. -/
theorem strategyClocksItsBranches : Obligations.StrategyClocksItsBranches := by
  intro s x hm
  refine ⟨_, exec_demod_run hm x, ?_⟩
  rintro _ _ rfl rfl
  obtain ⟨hM, hS, hP⟩ := demodStep_memories s.numerics s.derived x s.demod
  refine ⟨fun hd => ?powerRatio, fun hd => ?phase⟩
  case powerRatio =>
    rw [discriminate_of_not_discL hd] at hM hS hP
    exact ⟨hM, hS, hP⟩
  case phase =>
    rw [discriminate_of_discL hd] at hM hS hP
    exact ⟨hM, hS, hP⟩

end Sys2Proof.Machine
end

section
/-!
The decision value of the Discriminator in each strategy (R180 to R188).
-/
namespace Sys2Proof.Machine

section
variable {N : Numerics} {k mm ss : NumVal}

/-- The exact-zero guard of the power ratio (R182). -/
theorem powerRatio_of_zero (h : numEq (N.add mm ss) numZero = true) : powerRatio N k mm ss = numHalf := by
  rw [numEq_numZero] at h
  exact if_pos h

/-- The power ratio of a total that is not zero, a NaN included (R183). -/
theorem powerRatio_of_nonzero (h : numEq (N.add mm ss) numZero = false) :
    powerRatio N k mm ss = N.add numHalf (N.div (N.mul k (N.sub mm ss)) (N.add mm ss)) := by
  rw [numEq_numZero] at h
  exact if_neg (by simp [h])

end

/-- Settles O39: the value is the power ratio of the two branch powers, on either side of its guard. -/
theorem powerRatioDecision : Obligations.PowerRatioDecision := by
  rintro N d q x _ _ _ hd rfl rfl rfl
  rw [discriminate_of_not_discL hd]
  exact ⟨powerRatio_of_zero, powerRatio_of_nonzero⟩

section
variable {p : Cplx}

/-- The angle of (0, 0) is 0 (R186). -/
theorem phaseAngle_of_zero (N : Numerics) (hre : numEq p.re numZero = true) (him : numEq p.im numZero = true) :
    phaseAngle N p = numZero := by
  rw [numEq_numZero] at hre him
  simp [phaseAngle, hre, him]

/-- A zero imaginary part of either sign is passed on as +0 (R186). -/
theorem phaseAngle_of_im_zero (N : Numerics) (hre : numEq p.re numZero = false)
    (him : numEq p.im numZero = true) : phaseAngle N p = N.atan2 numZero p.re := by
  rw [numEq_numZero] at hre him
  simp [phaseAngle, hre, him]

/-- Off the real axis the angle is the argument (R186). -/
theorem phaseAngle_of_im_nonzero (N : Numerics) (him : numEq p.im numZero = false) :
    phaseAngle N p = N.atan2 p.im p.re := by
  rw [numEq_numZero] at him
  simp [phaseAngle, him]

end

/-- Settles O40: in each of the three cases the given angle is the model's, and the rest is R187. -/
theorem phaseDifferenceDecision : Obligations.PhaseDifferenceDecision := by
  rintro N d q x ph _ p hd rfl hp hph
  have hangle : ph = phaseAngle N p := by
    obtain ⟨hre, him, rfl⟩ | ⟨hre, him, rfl⟩ | ⟨him, rfl⟩ := hph
    · exact (phaseAngle_of_zero N hre him).symm
    · exact (phaseAngle_of_im_zero N hre him).symm
    · exact (phaseAngle_of_im_nonzero N him).symm
  subst hangle hp
  rw [discriminate_of_discL hd]
  rfl

end Sys2Proof.Machine
end

section
/-!
The SymbolSlicer (R200): which comparison decides each symbol, and the band between the thresholds.
-/
namespace Sys2Proof.Machine

/-- A 1 is held exactly off the values below `lo` (R200). -/
theorem slice_of_one (lo hi v : NumVal) : slice lo hi true v = !numLt v lo := by
  cases h : numLt v lo <;> simp [slice, h]

/-- A 0 rises exactly on the values above `hi` (R200). -/
theorem slice_of_zero (lo hi v : NumVal) : slice lo hi false v = numLt hi v := by
  cases h : numLt hi v <;> simp [slice, h]

/-- A value neither below `lo` nor above `hi` holds either symbol: the hysteresis band (R200, R204). -/
theorem slice_of_not_beyond {lo hi v : NumVal} (hlo : numLt v lo = false) (hhi : numLt hi v = false) (b : Bool) :
    slice lo hi b v = b := by
  cases b with
  | true => rw [slice_of_one, hlo]; rfl
  | false => rw [slice_of_zero, hhi]

/-- Settles O41: the closed band and a NaN both lie neither below `lo` nor above `hi`. -/
theorem slicerHasHysteresis : Obligations.SlicerHasHysteresis := by
  intro lo hi v b
  refine ⟨fun hlo hhi => ?band, ?nan, ?falls, ?rises⟩
  case band => exact slice_of_not_beyond (numLt_of_numLe hlo) (numLt_of_numLe hhi) b
  case nan => exact slice_of_not_beyond (numLt_nan_left lo) (numLt_nan_right hi) b
  case falls => rw [slice_of_one, Bool.not_eq_false']
  case rises => rw [slice_of_zero]

end Sys2Proof.Machine
end

section
/-!
The tick of the framer (R221, R222): a data tick stores one bit, the stop tick ends the frame, and the nine
ticks of a frame gather its byte.
-/
namespace Sys2Proof.Machine

/-- A data tick (R221). -/
theorem tick_of_data {q : Demod} (h : q.idx.val ≤ 7) :
    tick q = ({ q with acc := accWithBit q, idx := q.idx + 1 }, []) := if_pos h

/-- The stop tick (R222). -/
theorem tick_of_stop {q : Demod} (h : q.idx = 8) :
    tick q = ({ q with acc := 0#8, idx := 9, bage := 0 },
      if q.sym = true then [.byte q.acc] else [.discard q.acc]) := by
  cases hs : q.sym <;> simp [tick, h, hs]

/-- `IDX` does not wrap on a data tick (R221). -/
theorem idx_add_one_val {i : Fin 10} (h : i.val ≤ 7) : (i + 1).val = i.val + 1 :=
  Fin.val_add_one_of_lt (Fin.lt_def.mpr (Nat.lt_of_le_of_lt h (by decide)))

/-- The mask `SYM << IDX` has `SYM` at `IDX` and 0 elsewhere (R221). -/
theorem getLsbD_accWithBit (q : Demod) {j : Nat} (hj : j < 8) :
    (accWithBit q).getLsbD j = if j = q.idx.val then q.acc.getLsbD j || q.sym else q.acc.getLsbD j := by
  rw [accWithBit, BitVec.getLsbD_or, BitVec.getLsbD_shiftLeft]
  obtain hlt | rfl | hgt := lt_trichotomy j q.idx.val
  · simp [hlt, hlt.ne]
  · simp [hj]
  · have hpos : j - q.idx.val ≠ 0 := by omega
    simp [hgt.ne', hpos]

/-- Settles O46: the bits of `ACC` after a data tick are those of `getLsbD_accWithBit`. -/
theorem dataTickStoresOneBit : Obligations.DataTickStoresOneBit := fun q h =>
  ⟨accWithBit q, q.idx + 1, tick_of_data h, idx_add_one_val h, fun _ => getLsbD_accWithBit q⟩

/-- Settles O47: the stop tick's event, and its word in each case of the symbol. -/
theorem stopTickEndsTheFrame : Obligations.StopTickEndsTheFrame := by
  intro q h
  refine ⟨_, tick_of_stop h, rfl, ?_⟩
  cases q.sym with
  | true => rfl
  | false => rfl

/-- The framer has taken the first `n` data ticks of the frame of `b`: `ACC` holds the low `n` bits (R221). -/
structure HoldsBits (b : Byte) (n : Nat) (q : Demod) : Prop where
  idx : q.idx.val = n
  acc : ∀ j < 8, q.acc.getLsbD j = (decide (j < n) && b.getLsbD j)

/-- A frame begins with no bit held (R214). -/
theorem HoldsBits.of_start (b : Byte) {q : Demod} (hi : q.idx = 0) (ha : q.acc = 0#8) : HoldsBits b 0 q :=
  ⟨by simp [hi], by simp [ha]⟩

/-- A data tick with the next data symbol holds one bit more (R221, R93). -/
theorem tick_holdsBits {b : Byte} {n : Nat} {q : Demod} (h : HoldsBits b n q) (hn : n < 8)
    (hs : q.sym = b.getLsbD n) : (tick q).2 = [] ∧ HoldsBits b (n + 1) (tick q).1 := by
  obtain ⟨rfl, hacc⟩ := h
  have hi : q.idx.val ≤ 7 := by omega
  rw [tick_of_data hi]
  refine ⟨rfl, idx_add_one_val hi, fun j hj => ?_⟩
  rw [getLsbD_accWithBit q hj, hacc j hj, hs]
  obtain hlt | rfl | hgt := lt_trichotomy j q.idx.val
  · simp [hlt, hlt.ne, hlt.trans (Nat.lt_succ_self _)]
  · simp
  · have hge : ¬ j < q.idx.val + 1 := by omega
    simp [hgt.ne', hgt.not_gt, hge]

/-- All eight bits held are the byte. -/
theorem HoldsBits.acc_eq {b : Byte} {q : Demod} (h : HoldsBits b 8 q) : q.acc = b :=
  BitVec.eq_of_getLsbD_eq fun j hj => by rw [h.acc j hj, decide_eq_true hj, Bool.true_and]

/-- The first `n` symbols after the start symbol of a frame are the low `n` bits of its byte (R93). -/
theorem frameSymbols_data (b : Byte) {n : Nat} (hn : n ≤ 8) :
    ((frameSymbols b).drop 1).take n = (List.range n).map b.getLsbD := by
  have h8 : ((frameSymbols b).drop 1).take 8 = (List.range 8).map b.getLsbD := rfl
  rw [← Nat.min_eq_left hn, ← List.take_take, h8, ← List.map_take, List.take_range]

theorem tickAll_singleton (b : Bool) (q : Demod) : tickAll [b] q = tick { q with sym := b } := by
  simp [tickAll]

/-- The data ticks of a frame emit nothing and gather its bits (R221, R223). -/
theorem tickAll_data {b : Byte} {q : Demod} (h : HoldsBits b 0 q) {n : Nat} (hn : n ≤ 8) :
    ∃ u, tickAll ((List.range n).map b.getLsbD) q = (u, []) ∧ HoldsBits b n u := by
  induction n with
  | zero => exact ⟨q, rfl, h⟩
  | succ n ih =>
    obtain ⟨u, hu, hbits⟩ := ih (by omega)
    obtain ⟨hes, hnext⟩ := tick_holdsBits (q := { u with sym := b.getLsbD n }) ⟨hbits.idx, hbits.acc⟩ hn rfl
    rw [List.range_succ, List.map_append, tickAll_append, hu]
    exact ⟨_, by simp [tickAll, hes], hnext⟩

/-- Settles O48: eight data ticks gather the byte, and the ninth is the stop tick with that byte in `ACC`. -/
theorem nineTicksRecoverTheByte : Obligations.NineTicksRecoverTheByte := by
  intro b q stop n hi ha hn
  have hstart := HoldsBits.of_start b hi ha
  rw [frameSymbols_data b hn, frameSymbols_data b le_rfl]
  refine ⟨?nine, ?data⟩
  case nine =>
    obtain ⟨u, hu, hbits⟩ := tickAll_data hstart (le_refl 8)
    have hidx : ({ u with sym := stop } : Demod).idx = 8 := Fin.ext hbits.idx
    rw [tickAll_append, hu, tickAll_singleton, tick_of_stop hidx, hbits.acc_eq]
    exact ⟨_, rfl, rfl, rfl, rfl⟩
  case data =>
    obtain ⟨u, hu, hbits⟩ := tickAll_data hstart hn
    rw [hu]
    exact ⟨rfl, hbits.idx⟩

end Sys2Proof.Machine
end

section
/-!
One step of the framer (R210 to R220): IDLE and the start window, and when each policy takes a tick in FRAMING.
-/
namespace Sys2Proof.Machine

theorem isTransition_iff (q : Demod) : isTransition q = true ↔ q.sym ≠ q.psym := bne_iff_ne

/-- Both ages after a sample (R212). -/
theorem ageStep_eq (q : Demod) : ageStep q =
    { q with eage := if q.sym ≠ q.psym then 0 else min (q.eage + 1) (2 ^ 24 - 1)
             bage := min (q.bage + 1) (2 ^ 24 - 1) } := by
  simp only [ageStep, isTransition_iff]
  rfl

section
variable {N : Numerics} {d : Derived} {q : Demod}

/-- FRAMING in the counter-based policy (R219). -/
theorem framerStep_of_counter (h : q.idx ≠ 9) (hs : d.syncL = true) :
    framerStep N d q = counterStep d (isTransition q) (ageStep q) := by
  simp [framerStep, h, hs]

/-- FRAMING in the fractional-countdown policy (R217). -/
theorem framerStep_of_countdown (h : q.idx ≠ 9) (hs : d.syncL = false) :
    framerStep N d q = countdownStep N d (isTransition q) (ageStep q) := by
  simp [framerStep, h, hs]

/-- IDLE takes a start bit (R214). -/
theorem framerStep_of_accepted (h : q.idx = 9)
    (ha : startAccepted d q (ageOneMore q.eage) (ageOneMore q.bage) = true) :
    framerStep N d q = (acceptStart N d (ageStep q), []) :=
  (if_pos h).trans (if_pos ha)

/-- IDLE without a start bit only ages (R216). -/
theorem framerStep_of_not_accepted (h : q.idx = 9)
    (ha : ¬ startAccepted d q (ageOneMore q.eage) (ageOneMore q.bage) = true) :
    framerStep N d q = (ageStep q, []) :=
  (if_pos h).trans (if_neg ha)

/-- The acceptance in the counter-based policy (R215). -/
theorem acceptStart_of_counter (hs : d.syncL = true) :
    acceptStart N d q = { q with idx := 0, bitage := -(d.halfI : Int) } := if_pos hs

/-- The acceptance in the fractional-countdown policy (R214). -/
theorem acceptStart_of_countdown (hs : d.syncL = false) :
    acceptStart N d q = { q with idx := 0, cd := N.mul (.fin false 3 (-1)) d.spb } := if_neg (by simp [hs])

end

/-- The acceptance of a start bit: falling edge, window and byte guard (R211, R213 to R215). -/
theorem startAccepted_iff (d : Derived) (q : Demod) (age bage : Nat) :
    startAccepted d q age bage = true ↔
      (q.psym = true ∧ q.sym = false ∧
        ((d.wcmpL = false ∧ age ≥ d.gEdge) ∨ (d.wcmpL = true ∧ age = d.gEdge)) ∧
        (d.syncL = false ∨ bage ≥ d.gByte)) := by
  cases hw : d.wcmpL <;> simp [startAccepted, isFallingEdge, windowPasses, hw, and_assoc]

/-- Settles O43: the given condition is `startAccepted`, and a falling edge is a transition. -/
theorem idleAcceptsAStartEdge : Obligations.IdleAcceptsAStartEdge := by
  rintro N d q _ _ accepted h9 rfl rfl hacc
  have htrans : accepted → q.sym ≠ q.psym := fun ha => by
    obtain ⟨hp, hs, -⟩ := hacc.mp ha
    simp [hp, hs]
  replace hacc := hacc.trans (startAccepted_iff d q (ageOneMore q.eage) (ageOneMore q.bage)).symm
  refine ⟨fun ha hs => ?countdown, fun ha hs => ?counter, fun ha => ?waits⟩
  case countdown =>
    rw [framerStep_of_accepted h9 (hacc.mp ha), acceptStart_of_countdown hs, ageStep_eq, if_pos (htrans ha)]
  case counter =>
    rw [framerStep_of_accepted h9 (hacc.mp ha), acceptStart_of_counter hs, ageStep_eq, if_pos (htrans ha)]
  case waits => rw [framerStep_of_not_accepted h9 (mt hacc.mpr ha), ageStep_eq]

/-- Settles O44: `countdownStep` on the aged state. -/
theorem countdownTimesTheTicks : Obligations.CountdownTimesTheTicks := by
  rintro N d q _ _ h hs rfl rfl
  rw [framerStep_of_countdown h hs, ageStep_eq]
  simp only [countdownStep, isTransition_iff, numLit_one]
  rfl

/-- Settles O45: `counterStep` on the aged state. -/
theorem counterTimesTheTicks : Obligations.CounterTimesTheTicks := by
  rintro N d q _ _ h hs rfl rfl
  rw [framerStep_of_counter h hs, ageStep_eq]
  simp only [counterStep, isTransition_iff]

end Sys2Proof.Machine
end

section
/-!
The age counters through one DEMOD (R212, R222).
-/
namespace Sys2Proof.Machine

/-- After the outcome `r` of a part of the framer both ages are those of `q`, but that the end of a frame,
which its event shows, zeroes `BAGE` (R222). -/
structure KeepsAges (q : Demod) (r : Demod × List Event) : Prop where
  eage : r.1.eage = q.eage
  bage : r.1.bage = if r.2 = [] then q.bage else 0

theorem tick_keepsAges (q : Demod) : KeepsAges q (tick q) := by
  obtain ⟨-, h⟩ | ⟨-, h⟩ := tick_cases q <;> rw [h]
  · exact ⟨rfl, rfl⟩
  · exact ⟨rfl, rfl⟩

theorem counterStep_keepsAges (d : Derived) (trans : Bool) (q : Demod) :
    KeepsAges q (counterStep d trans q) := by
  obtain ⟨-, h⟩ | ⟨-, h⟩ := counterStep_cases d trans q <;> rw [h]
  · obtain ⟨he, hb⟩ := tick_keepsAges { q with bitage := 0 }
    exact ⟨he, hb⟩
  · exact ⟨rfl, rfl⟩

theorem countdownStep_keepsAges (N : Numerics) (d : Derived) (trans : Bool) (q : Demod) :
    KeepsAges q (countdownStep N d trans q) := by
  obtain ⟨c, -, h⟩ | ⟨c, -, h⟩ := countdownStep_cases N d trans q <;> rw [h]
  · obtain ⟨he, hb⟩ := tick_keepsAges { q with cd := N.add c d.spb }
    exact ⟨he, hb⟩
  · exact ⟨rfl, rfl⟩

/-- Past `ageStep` only the end of a frame touches an age counter (R214 to R222). -/
theorem framerStep_keepsAges (N : Numerics) (d : Derived) (q : Demod) :
    KeepsAges (ageStep q) (framerStep N d q) := by
  obtain ⟨-, -, h⟩ | ⟨-, -, h⟩ | ⟨-, -, h⟩ | ⟨-, -, h⟩ := framerStep_cases N d q <;> rw [h]
  · unfold acceptStart
    split
    · exact ⟨rfl, rfl⟩
    · exact ⟨rfl, rfl⟩
  · exact ⟨rfl, rfl⟩
  · exact counterStep_keepsAges _ _ _
  · exact countdownStep_keepsAges _ _ _ _

/-- The framer runs on the ages as DEMOD finds them: discriminator and slicer keep both (R55). -/
theorem demodStep_framer_ages (N : Numerics) (d : Derived) (x : Sample) (q : Demod) :
    ∃ u, demodStep N d x q = framerStep N d u ∧ u.eage = q.eage ∧ u.bage = q.bage := by
  obtain ⟨-, -, -, -, -, -, heage, hbage⟩ := discriminate_frame N d (scaledSample N x) q
  exact ⟨_, demodStep_eq_framerStep N d x q, heage, hbage⟩

/-- Settles O42: the framer ages the counters of its state, and it keeps both symbols. -/
theorem ageCountersCountSamples : Obligations.AgeCountersCountSamples := by
  intro s x hm
  refine ⟨_, _, exec_demod_run hm x, rfl, ?_⟩
  obtain ⟨u, hu, hue, hub⟩ := demodStep_framer_ages s.numerics s.derived x s.demod
  obtain ⟨-, -, -, hsym, hpsym⟩ := framerStep_frame s.numerics s.derived u
  obtain ⟨heage, hbage⟩ := framerStep_keepsAges s.numerics s.derived u
  rw [ageStep_eq] at heage hbage
  simp only [emitAll_demod, setDemod_demod, List.map_eq_nil_iff, hu, hsym, hpsym, ← hue, ← hub]
  exact ⟨heage, hbage⟩

end Sys2Proof.Machine
end

section
/-!
The encode path (R240 to R249): a symbol as a run of samples, MODBYTE's frame and MODPOST's postamble.
-/
namespace Sys2Proof.Machine

/-- A run of samples in closed form: sample `k` is that of the carrier advanced `k` times (R243, R244). -/
theorem sampleRun_eq_iterate (N : Numerics) (rot : Cplx) (n : Nat) (car : Cplx) :
    sampleRun N rot n car = ((advanceCarrier N rot)^[n] car,
      (List.range n).map fun k => .sample (carrierSample N ((advanceCarrier N rot)^[k] car))) := by
  induction n generalizing car with
  | zero => rfl
  | succ n ih => simp [sampleRun, ih, List.range_succ_eq_map]

/-- Settles O51: the given step of the carrier is `advanceCarrier` by the symbol's rotor. -/
theorem symbolIsARunOfRotations : Obligations.SymbolIsARunOfRotations := by
  rintro N d b m _ _ next rfl rfl hnext
  obtain rfl : next = advanceCarrier N (symbolRotor d b) := funext fun c => hnext c _ rfl
  rw [sendSymbol, sampleRun_eq_iterate]
  rfl

/-- Symbols keep `BURST`, so writing the old value back after them changes nothing. -/
theorem sendSymbols_rewriteBurst {N : Numerics} {d : Derived} {m : Modulator} {b : Bool} (hb : m.burst = b)
    (bs : List Bool) : { (sendSymbols N d bs m).1 with burst := b } = (sendSymbols N d bs m).1 := by
  rw [← hb, ← sendSymbols_burst N d bs m]

/-- The data symbols of a frame are the byte's bits from the lowest (R93). -/
theorem frameSymbols_eq (b : Byte) :
    frameSymbols b = false :: (List.range 8).map (fun i => b.getLsbD i) ++ [true] := rfl

/-- MODBYTE sends one list of symbols, the frame behind the marks of a burst's first byte, and sets
`BURST` (R240, R241). -/
theorem modbyteStep_eq_sendSymbols (N : Numerics) (d : Derived) (b : Byte) (m : Modulator) :
    modbyteStep N d b m =
      let r := sendSymbols N d ((if m.burst then [] else List.replicate d.preN true) ++ frameSymbols b) m
      ({ r.1 with burst := true }, r.2) := by
  cases hb : m.burst with
  | true => simp [modbyteStep, preamble, hb, sendSymbols_rewriteBurst hb]
  | false => simp [modbyteStep, preamble, hb, sendSymbols_append, sendSymbols_withBurst]

theorem exec_modbyte_run {s : State} (hm : s.mode = .run) (b : Byte) :
    exec (.modbyte b) s = .next (emitAll (modbyteStep s.numerics s.derived b s.modulator).2
      (setModulator (modbyteStep s.numerics s.derived b s.modulator).1 s)) :=
  requireMode_same hm

theorem exec_modpost_run {s : State} (hm : s.mode = .run) :
    exec .modpost s = .next (emitAll (modpostStep s.numerics s.derived s.modulator).2
      (setModulator (modpostStep s.numerics s.derived s.modulator).1 s)) :=
  requireMode_same hm

/-- Settles O49: preamble and frame are one list of symbols. -/
theorem modbyteSendsAFrame : Obligations.ModbyteSendsAFrame := by
  rintro s b _ hm rfl
  have hexec := exec_modbyte_run hm b
  rw [modbyteStep_eq_sendSymbols, frameSymbols_eq, ← List.append_assoc] at hexec
  exact ⟨_, _, hexec, rfl, rfl, rfl, sendSymbols_events _ _ _ _⟩

/-- Settles O50: `modpostStep` sends the marks and clears `BURST`. -/
theorem modpostSendsThePostamble : Obligations.ModpostSendsThePostamble :=
  fun _ hm => ⟨_, _, exec_modpost_run hm, rfl, rfl, rfl, modpostStep_events _ _ _⟩

end Sys2Proof.Machine
end

section
/-!
Errors (R38, R260, R262): a command that does not raise an error emits no ERROR event, and RESET alone
clears `ERR` and `CAUSE`; a command that raises one does that and nothing else.
-/
namespace Sys2Proof.Machine

/-- Events among which there is no ERROR event. -/
def ErrorFree (es : List Event) : Prop := ∀ e ∈ es, ∀ c b, e ≠ .error c b

theorem errorFree_of_samples {es : List Event} (h : ∀ e ∈ es, ∃ x, e = .sample x) : ErrorFree es := by
  intro e he
  obtain ⟨x, rfl⟩ := h e he
  exact nofun

/-- The framer emits at most one BYTE or one DISCARD. -/
theorem framerStep_errorFree (N : Numerics) (d : Derived) (q : Demod) : ErrorFree (framerStep N d q).2 := by
  obtain h | ⟨b, h | h⟩ := framerStep_events N d q <;> simp [h, ErrorFree]

/-- DEMOD itself emits no ERROR event: its events are the framer's. -/
theorem demodStep_errorFree (N : Numerics) (d : Derived) (x : Sample) (q : Demod) :
    ErrorFree (demodStep N d x q).2 := framerStep_errorFree _ _ _

/-- The words of error-free events do not carry the tag of an ERROR event (R86, R91). -/
theorem ErrorFree.tag_ne {es : List Event} (h : ErrorFree es) :
    ∀ v ∈ es.map eventWord, v.extractLsb' 28 4 ≠ 0xE#4 := by
  intro v hv htag
  obtain ⟨e, he, rfl⟩ := List.mem_map.mp hv
  obtain ⟨c, b, rfl⟩ := eventWord_tag_eq_error htag
  exact h _ he c b rfl

/-- What a command other than RESET does without an error: it keeps `ERR` and `CAUSE` and appends the words
of error-free events. -/
structure RunsErrorFree (s t : State) (es : List Event) : Prop where
  err : t.err = s.err
  cause : t.cause = s.cause
  out : t.out = s.out ++ es.map eventWord
  errorFree : ErrorFree es

/-- Emitting error-free events from a state whose flags and `OUT` are those of `s`. -/
theorem RunsErrorFree.emitAll {s u : State} {es : List Event} (he : u.err = s.err) (hc : u.cause = s.cause)
    (ho : u.out = s.out) (hes : ErrorFree es) : RunsErrorFree s (emitAll es u) es :=
  ⟨he, hc, congrArg (· ++ es.map eventWord) ho, hes⟩

/-- A command other than RESET runs without an error, or raises one (R260, R262). -/
theorem exec_runs_or_raises {i : Instr} {s t : State} (h : exec i s = .next t) (hi : i ≠ .reset) :
    (∃ es, RunsErrorFree s t es) ∨ ∃ c, t = raiseError c (encode i) s := by
  cases exec_effect h with
  | reset => exact absurd rfl hi
  | nop | write | session | stop => exact .inl ⟨[], rfl, rfl, (List.append_nil _).symm, nofun⟩
  | read => exact .inl ⟨_, .emitAll rfl rfl rfl (by simp [ErrorFree])⟩
  | sample => exact .inl ⟨_, .emitAll rfl rfl rfl (demodStep_errorFree _ _ _ _)⟩
  | byte => exact .inl ⟨_, .emitAll rfl rfl rfl (errorFree_of_samples (modbyteStep_events _ _ _ _))⟩
  | postamble => exact .inl ⟨_, .emitAll rfl rfl rfl (errorFree_of_samples (modpostStep_events _ _ _))⟩
  | error i c => exact .inr ⟨c, rfl⟩

/-- A word other than RESET's runs without an error, or raises one with the top byte of that word. -/
theorem runWord_runs_or_raises {w : Word} {s t : State} (h : runWord w s = .next t)
    (hr : decode w ≠ .ok .reset) : (∃ es, RunsErrorFree s t es) ∨ ∃ c, t = raiseError c w s := by
  obtain ⟨i, hd, hi⟩ | ⟨e, -, he⟩ := runWord_cases h
  · rw [← encodeOfDecodeIsTheWord w i hd]
    exact exec_runs_or_raises hi.symm fun heq => hr (heq ▸ hd)
  · cases he
    exact .inr ⟨.illegalOp, rfl⟩

/-- The causes are 1 to 4 (R261). -/
theorem causeCode_range (c : Cause) : 1 ≤ (causeCode c).toNat ∧ (causeCode c).toNat ≤ 4 := by
  cases c <;> decide

/-- Settles O29: a word has a next state, which is an error-free one or that of `raiseError`. -/
theorem aWordRunsOrRaisesOneError : Obligations.AWordRunsOrRaisesOneError := by
  intro w s hr
  obtain ⟨t, ht⟩ := runWord_goes_on w s
  refine ⟨t, ht, ?_⟩
  obtain ⟨es, hrun⟩ | ⟨c, rfl⟩ := runWord_runs_or_raises ht hr
  · exact .inl ⟨hrun.err, hrun.cause, _, hrun.out, hrun.errorFree.tag_ne⟩
  · exact .inr ⟨causeCode c, (causeCode_range c).1, (causeCode_range c).2, rfl⟩

/-- Settles O30: `exec_goes_on`, by cases on the command. -/
theorem noCommandStops : Obligations.NoCommandStops := exec_goes_on

/-- Settles O11: an idle step. -/
theorem idleBlockKeepsAllState : Obligations.IdleBlockKeepsAllState := fun _ => step_idle

end Sys2Proof.Machine
end

section
/-!
The host's report of an event (R268): the two digits of a byte in a diagnostic line, and which events are
reported where.
-/
namespace Sys2Proof.Machine

theorem hexDigit_eq_getD : ∀ n : Fin 16, hexDigit n = "0123456789abcdef".toList.getD n ' ' := by decide

/-- `%02x` writes the digit of the high four bits, then that of the low four (R268). -/
theorem hexByte_eq_digits (b : Byte) : ∃ hi lo : Fin 16, b.toNat = 16 * hi.val + lo.val ∧
    hexByte b = ["0123456789abcdef".toList.getD hi.val ' ', "0123456789abcdef".toList.getD lo.val ' '] := by
  have hb := b.isLt
  refine ⟨⟨b.toNat / 16, by omega⟩, ⟨b.toNat % 16, by omega⟩, (Nat.div_add_mod b.toNat 16).symm, ?_⟩
  rw [← hexDigit_eq_getD, ← hexDigit_eq_getD]
  rfl

theorem diagnosticLine_discard (name : List Char) (b : Byte) : diagnosticLine name (.discard b) =
    some ("warning: ".toList ++ name ++ ": discarding possible 0x".toList ++ (hexByte b ++ ['\n'])) :=
  congrArg some (List.append_assoc _ _ _)

theorem diagnosticLine_of_ne_discard {e : Event} (h : ∀ b, e ≠ .discard b) (name : List Char) :
    diagnosticLine name e = none := by
  cases e with
  | discard b => exact absurd rfl (h b)
  | sample | byte | regval | error => rfl

theorem sinkBytes_of_ne_byte {e : Event} (h : ∀ b, e ≠ .byte b) : sinkBytes e = [] := by
  cases e with
  | byte b => exact absurd rfl (h b)
  | sample | discard | regval | error => rfl

theorem encodeBytes_of_ne_sample {e : Event} (h : ∀ x, e ≠ .sample x) : encodeBytes e = [] := by
  cases e with
  | sample x => exact absurd rfl (h x)
  | byte | discard | regval | error => rfl

/-- Settles O58: the three events with a report, then each of the three outputs without one. -/
theorem hostReportsEachEventOnce : Obligations.HostReportsEachEventOnce := by
  intro name e
  refine ⟨?_, fun _ he => he ▸ rfl, fun _ he => he ▸ rfl, fun h => diagnosticLine_of_ne_discard h name,
    sinkBytes_of_ne_byte, encodeBytes_of_ne_sample⟩
  rintro b rfl
  obtain ⟨hi, lo, hb, hdigits⟩ := hexByte_eq_digits b
  refine ⟨hi, lo, hb, ?_⟩
  rw [diagnosticLine_discard, hdigits]
  rfl

end Sys2Proof.Machine
end

section
/-!
Reset and hazards (R290, R291, R301): power-on reset, and a DEMOD beside a modulator command.  The two
commute because neither reads what the other writes (R55).
-/
namespace Sys2Proof.Machine

/-- Settles O13: the values written out are those of `powerOnReset`, whose constants are free. -/
theorem powerOnResetSetsEveryElement : Obligations.PowerOnResetSetsEveryElement :=
  fun s _ hi => ⟨unspecifiedDerived s.freeCount, step_powerOn hi⟩

/-- In RUN, a modulator command is a function of the number format, the constants and the modulator state,
and writes the modulator state and `OUT` only (R240, R249, R55). -/
theorem exec_modulator_run {i : Instr} (hi : i = .modpost ∨ ∃ b, i = .modbyte b) :
    ∃ f : Numerics → Derived → Modulator → Modulator × List Event, ∀ s : State, s.mode = .run →
      exec i s = .next (emitAll (f s.numerics s.derived s.modulator).2
        (setModulator (f s.numerics s.derived s.modulator).1 s)) := by
  obtain rfl | ⟨b, rfl⟩ := hi
  · exact ⟨modpostStep, fun _ hm => exec_modpost_run hm⟩
  · exact ⟨fun N d => modbyteStep N d b, fun _ hm => exec_modbyte_run hm b⟩

/-- Settles O52: the second command of either order finds the mode, the constants and its own unit's state
as the first would have found them, so the common state is `s` with both units' states replaced. -/
theorem demodAndModulatorCommute : Obligations.DemodAndModulatorCommute := by
  intro s x i hm hi
  obtain ⟨f, hf⟩ := exec_modulator_run hi
  let q := demodStep s.numerics s.derived x s.demod
  let m := f s.numerics s.derived s.modulator
  have hdemod : exec (.demod x) s = .next (emitAll q.2 (setDemod q.1 s)) := exec_demod_run hm x
  have hmod : exec i s = .next (emitAll m.2 (setModulator m.1 s)) := hf s hm
  refine ⟨setModulator m.1 (setDemod q.1 s), _, _, q.2.map eventWord, m.2.map eventWord,
    hdemod, ?demodFirst, hmod, ?modulatorFirst, rfl, rfl⟩
  case demodFirst => exact hf (emitAll q.2 (setDemod q.1 s)) hm
  case modulatorFirst => exact exec_demod_run (s := emitAll m.2 (setModulator m.1 s)) hm x

end Sys2Proof.Machine
end
